-- ==== Sys2Proof/Word.lean ====
section
/-!
DEFINITION. The value types of the core (spec 10_state.md R20, R23, R25; 00_scope.md R8, R9).
-/

namespace Sys2Proof

/-- An 8-bit value: a general register, a timer, a memory cell, an immediate (R9, R20, R31). -/
abbrev Byte := BitVec 8

/-- A 16-bit value: an instruction word, the program counter, the index register, a stack slot (R23, R25, R27). -/
abbrev Word := BitVec 16

/-- The 12-bit address operand `nnn` (R11). -/
abbrev Addr12 := BitVec 12

/-- A register index `x` or `y`, 0 to 15 (R10, R11). -/
abbrev Reg := Fin 16

/-- The nibble count `n` of DRW, 0 to 15 (R11). -/
abbrev Count := Fin 16

/-- A logical key, 0x0 to 0xF (R186). -/
abbrev Key := Fin 16

end Sys2Proof
end

