-- ==== Sys2Proof/Config.lean ====
section
/-!
DEFINITION. What is fixed for one run (the parameters of spec 00_scope.md R7), the capability interface's calls and
answers (60_exceptions.md R225), and the free values: what the spec leaves to a draw or to the capability.
-/

namespace Sys2Proof

/-! ## Fixed numbers (R7, ground "source") -/

/-- `MEM_SIZE`: cells at addresses 0x000-0xFFF (R7, R50). -/
abbrev memSize : Nat := 0x1000
/-- `PROG_BASE` (R7, R23, R251). -/
abbrev progBase : Nat := 0x200
/-- `GLYPH_BASE` (R7). -/
abbrev glyphBase : Nat := 0x000
/-- `GLYPH_STRIDE`: bytes of one glyph (R7, R33). -/
abbrev glyphStride : Nat := 5
/-- Bytes of the glyph table: 16 glyphs, so the glyph region is 0x000-0x04F (R7, R33). -/
abbrev glyphBytes : Nat := 80
/-- `STACK_DEPTH` (R7, R27). -/
abbrev stackDepth : Nat := 16
/-- The largest image: what memory holds above `PROG_BASE` (R251). -/
abbrev maxImage : Nat := 0xE00
/-- The cap of a legal `FREQ` (R234). -/
abbrev maxFreq : Nat := 1000000000

/-! ## Parameters -/

/-- `GLYPH_WRITE_POLICY` (R7, R62; decision D6). -/
inductive GlyphWritePolicy where
  | fault
  | write
deriving DecidableEq, Repr, Inhabited

/-- `RESET_POLICY` (R7, R22; decision D2). -/
inductive ResetPolicy where
  | zero
  | unwritten
deriving DecidableEq, Repr, Inhabited

/-- The default `GLYPH_TABLE`, one line a digit (R33; decision D28). -/
def defaultGlyphs : Vector Byte glyphBytes :=
  ⟨#[0xF0, 0x90, 0x90, 0x90, 0xF0,  0x20, 0x60, 0x20, 0x20, 0x70,
     0xF0, 0x10, 0xF0, 0x80, 0xF0,  0xF0, 0x10, 0xF0, 0x10, 0xF0,
     0x90, 0x90, 0xF0, 0x10, 0x10,  0xF0, 0x80, 0xF0, 0x10, 0xF0,
     0xF0, 0x80, 0xF0, 0x90, 0xF0,  0xF0, 0x10, 0x20, 0x40, 0x40,
     0xF0, 0x90, 0xF0, 0x90, 0xF0,  0xF0, 0x90, 0xF0, 0x10, 0xF0,
     0xF0, 0x90, 0xF0, 0x90, 0x90,  0xE0, 0x90, 0xE0, 0x90, 0xE0,
     0xF0, 0x80, 0x80, 0x80, 0xF0,  0xE0, 0x90, 0x90, 0x90, 0xE0,
     0xF0, 0x80, 0xF0, 0x80, 0xF0,  0xF0, 0x80, 0xF0, 0x80, 0x80], rfl⟩

/-- The parameters of one run (R7, R35). No step changes them; `State` carries them so that every statement about a
state holds at every legal setting. -/
structure Config where
  /-- `W`, read once from the capability at construction (R30, R225). -/
  width : Nat
  /-- `H`, read once from the capability at construction (R30, R225). -/
  height : Nat
  /-- `FREQ`, instructions per second; 0 is unthrottled (R231, R234; log 14). -/
  freq : Nat
  /-- `GLYPH_TABLE` (R33). -/
  glyphTable : Vector Byte glyphBytes
  /-- `GLYPH_WRITE_POLICY` (R62). -/
  glyphWritePolicy : GlyphWritePolicy
  /-- `JUMP_OFFSET_REG` (R114). -/
  jumpOffsetReg : Reg
  /-- `ARITH_FLAG_LAST` (R130, R137, R138, R140). -/
  arithFlagLast : Bool
  /-- `SHIFT_FLAG_FIRST` (R130, R139, R141). -/
  shiftFlagFirst : Bool
  /-- `KEY_SENTINEL` (R181). -/
  keySentinel : Byte
  /-- `RESET_POLICY` (R22). -/
  resetPolicy : ResetPolicy
  /-- `POLL_INTERVAL` (R225; timing only). -/
  pollInterval : Nat
deriving DecidableEq, Repr

/-- What the host must supply before the core is constructed (R234, R252; decision D26). -/
abbrev Config.Legal (c : Config) : Prop := 1 ≤ c.width ∧ 1 ≤ c.height ∧ c.freq ≤ maxFreq

/-- The value of the OPEN parameter `KEY_SENTINEL`: nothing constrains it (R7, decision D19; log 12). -/
opaque Config.openKeySentinel : Byte

/-- The value of the OPEN parameter `POLL_INTERVAL`: nothing constrains it (R7, decision D31; log 12). -/
opaque Config.openPollInterval : Nat

/-- The defaults of R7. -/
def Config.default : Config where
  width := 64
  height := 32
  freq := 500
  glyphTable := defaultGlyphs
  glyphWritePolicy := .fault
  jumpOffsetReg := 0
  arithFlagLast := true
  shiftFlagFirst := true
  keySentinel := Config.openKeySentinel
  resetPolicy := .zero
  pollInterval := Config.openPollInterval

/-! ## The capability interface (R225) -/

/-- The timeout of an `update` request (R225). -/
inductive Timeout where
  /-- the time that remains to the next instruction: wall-clock, not modelled (R270) -/
  | remaining
  /-- `POLL_INTERVAL`, when `FREQ` = 0 -/
  | poll (interval : Nat)
deriving DecidableEq, Repr, Inhabited

/-- A request the core issues on the capability interface (R225). `drawScreen` carries no copy of the buffer: the
request is a read-only view of the pixel buffer of the state it is issued in. -/
inductive CapCall where
  | init
  | width
  | height
  | drawScreen
  | update (timeout : Timeout)
  | isKeyPressed (key : Key)
  | waitForKey
  | shouldClose
  | soundResume
  | soundPause
  | finalize
deriving DecidableEq, Repr, Inhabited

/-- How a call ends (R201 row 8, R225, R226): it returns, it fails (F_CAPABILITY), or no answer ever comes. -/
inductive Response (α : Type) where
  | returns (value : α)
  | fails
  | noAnswer
deriving DecidableEq, Repr, Inhabited

/-- How a non-blocking call ends (`is_key_pressed`, R225): it returns or it fails, and the core never waits for it (R237). -/
inductive Reply (α : Type) where
  | returns (value : α)
  | fails
deriving DecidableEq, Repr, Inhabited

/-- A reply as the response of a request. -/
def Reply.response {α : Type} : Reply α → Response α
  | .returns value => .returns value
  | .fails => .fails

/-- The answer of `wait_for_key` (R225). -/
inductive KeyEvent where
  | key (d : Key)
  | interrupted
deriving DecidableEq, Repr, Inhabited

/-- Everything one step may take from outside the core: the answers of the capability (R225), the byte `Draw8`
returns (R10, R142), and the two draws of the service loop (R214, R231). A step asks for each at most once. -/
structure Answers where
  init : Response Unit
  shouldClose : Response Bool
  drawScreen : Response Unit
  update : Response Unit
  tickDue : Bool
  /-- the answer to `sound_resume` or `sound_pause`, whichever is commanded -/
  sound : Response Unit
  budgetElapsed : Bool
  /-- the state of the sixteen keys when `is_key_pressed` is asked, which answers at once: bit `k` is key `k` -/
  keys : Reply (BitVec 16)
  waitForKey : Response KeyEvent
  finalize : Response Unit
  draw8 : Byte
deriving DecidableEq, Repr, Inhabited

/-- The answers at the `n`-th draw: free, no law relates two draws (R10, R225, R226; log 10). -/
opaque Config.freeAnswers : Nat → Answers

end Sys2Proof
end

