-- ==== Sys2Proof/Syntax.lean ====
section
/-!
DEFINITION. The decoded instruction: the closed tagged union of spec 30_encoding.md R91, one constructor per row of the
opcode map R86, each with its operand fields already extracted (R83).
-/

namespace Sys2Proof

inductive Instr where
  /-- `0nnn` SYS nnn (R110) -/
  | sys (nnn : Addr12)
  /-- `00E0` CLS (R170) -/
  | cls
  /-- `00EE` RET (R111) -/
  | ret
  /-- `1nnn` JP nnn (R113) -/
  | jp (nnn : Addr12)
  /-- `2nnn` CALL nnn (R112) -/
  | call (nnn : Addr12)
  /-- `3xkk` SE Vx, kk (R120) -/
  | seImm (x : Reg) (kk : Byte)
  /-- `4xkk` SNE Vx, kk (R121) -/
  | sneImm (x : Reg) (kk : Byte)
  /-- `5xy-` SE Vx, Vy (R122) -/
  | seReg (x y : Reg)
  /-- `6xkk` LD Vx, kk (R131) -/
  | ldImm (x : Reg) (kk : Byte)
  /-- `7xkk` ADD Vx, kk (R132) -/
  | addImm (x : Reg) (kk : Byte)
  /-- `8xy0` LD Vx, Vy (R133) -/
  | ldReg (x y : Reg)
  /-- `8xy1` OR Vx, Vy (R134) -/
  | or (x y : Reg)
  /-- `8xy2` AND Vx, Vy (R135) -/
  | and (x y : Reg)
  /-- `8xy3` XOR Vx, Vy (R136) -/
  | xor (x y : Reg)
  /-- `8xy4` ADD Vx, Vy (R137) -/
  | addReg (x y : Reg)
  /-- `8xy5` SUB Vx, Vy (R138) -/
  | subReg (x y : Reg)
  /-- `8xy6` SHR Vx; `y` is carried and unused (R90, R139) -/
  | shr (x y : Reg)
  /-- `8xy7` SUBN Vx, Vy (R140) -/
  | subn (x y : Reg)
  /-- `8xyE` SHL Vx; `y` is carried and unused (R90, R141) -/
  | shl (x y : Reg)
  /-- `9xy0` SNE Vx, Vy (R123) -/
  | sneReg (x y : Reg)
  /-- `Annn` LD I, nnn (R150) -/
  | ldI (nnn : Addr12)
  /-- `Bnnn` JP V0, nnn (R114) -/
  | jpOff (nnn : Addr12)
  /-- `Cxkk` RND Vx, kk (R142) -/
  | rnd (x : Reg) (kk : Byte)
  /-- `DxyN` DRW Vx, Vy, N (R171) -/
  | drw (x y : Reg) (n : Count)
  /-- `Ex9E` SKP Vx (R184) -/
  | skp (x : Reg)
  /-- `ExA1` SKNP Vx (R185) -/
  | sknp (x : Reg)
  /-- `Fx07` LD Vx, DT (R180) -/
  | ldVxDt (x : Reg)
  /-- `Fx0A` LD Vx, K (R181) -/
  | ldVxK (x : Reg)
  /-- `Fx15` LD DT, Vx (R182) -/
  | ldDtVx (x : Reg)
  /-- `Fx18` LD ST, Vx (R183) -/
  | ldStVx (x : Reg)
  /-- `Fx1E` ADD I, Vx (R151) -/
  | addI (x : Reg)
  /-- `Fx29` LD F, Vx (R152) -/
  | ldF (x : Reg)
  /-- `Fx33` LD B, Vx (R154) -/
  | ldB (x : Reg)
  /-- `Fx55` LD [I], Vx (R155) -/
  | storeRegs (x : Reg)
  /-- `Fx65` LD Vx, [I] (R156) -/
  | loadRegs (x : Reg)
deriving DecidableEq, Repr

end Sys2Proof
end

