-- ==== Sys2Proof/WellFormed.lean ====
section
/-!
DEFINITION. Which terms of `Instr` the decoder can give. Every operand is an unsigned field of its own width (spec
30_encoding.md R83), which the types of `Instr` already say; what is left is the one overlap of the opcode map: the words
0x00E0 and 0x00EE are CLS and RET and never SYS (R85, R86 rows 1 to 3).
-/

namespace Sys2Proof

/-- `sys nnn` stands for a word other than 0x00E0 (R86 row 2). -/
def Instr.notClsWord : Instr → Bool
  | .sys nnn => nnn != 0x0E0#12
  | _ => true

/-- `sys nnn` stands for a word other than 0x00EE (R86 row 3). -/
def Instr.notRetWord : Instr → Bool
  | .sys nnn => nnn != 0x0EE#12
  | _ => true

/-- The well-formed instructions: those some word decodes to (R86). -/
def Instr.wellFormed (i : Instr) : Bool := i.notClsWord && i.notRetWord

end Sys2Proof
end

