-- ==== Sys2Proof/Decode.lean ====
section
/-!
DEFINITION. The decoder, a total function that reads no state (spec 30_encoding.md R84, R85), the encoder written from
the formats R82 and the opcode map R86, and the opcode map itself as a table of rows.
-/

namespace Sys2Proof

/-! ## Fields of a word (R8, R11, R82, R83) -/

/-- `w[15:12]`, the top nibble. -/
def topNibble (w : Word) : Nat := (w.extractLsb' 12 4).toNat
/-- `x = w[11:8]`, the second nibble. -/
def fieldX (w : Word) : Reg := ⟨(w.extractLsb' 8 4).toNat, (w.extractLsb' 8 4).isLt⟩
/-- `y = w[7:4]`, the third nibble. -/
def fieldY (w : Word) : Reg := ⟨(w.extractLsb' 4 4).toNat, (w.extractLsb' 4 4).isLt⟩
/-- `n = w[3:0]`, the low nibble. -/
def fieldN (w : Word) : Count := ⟨(w.extractLsb' 0 4).toNat, (w.extractLsb' 0 4).isLt⟩
/-- `kk = w[7:0]`, the low byte. -/
def fieldKK (w : Word) : Byte := w.extractLsb' 0 8
/-- `nnn = w[11:0]`. -/
def fieldNNN (w : Word) : Addr12 := w.extractLsb' 0 12

/-! ## The decoder -/

/-- Why a decode fails: the four illegal families of R87, each with the selector found, and bytes that hold no whole
word (every instruction is two cells, R81). -/
inductive DecodeReject where
  /-- `1000 xxxx yyyy ssss` with no operation at selector `ssss` -/
  | aluSelector (n : Count)
  /-- `1001 xxxx yyyy ssss` with `ssss` other than 0 -/
  | sneSelector (n : Count)
  /-- `1110 xxxx kkkk kkkk` with a low byte other than 0x9E and 0xA1 -/
  | keySelector (kk : Byte)
  /-- `1111 xxxx kkkk kkkk` with no operation at low byte `kk` -/
  | miscSelector (kk : Byte)
  /-- fewer than two bytes -/
  | truncated
deriving DecidableEq, Repr

/-- Top nibble 0x0: two exact words, and SYS for every other one (R85). -/
def decodeSystem (w : Word) : Instr :=
  if w = 0x00E0#16 then .cls else if w = 0x00EE#16 then .ret else .sys (fieldNNN w)

/-- Top nibble 0x8: the low nibble selects one of nine operations (R85). -/
def decodeAlu (w : Word) : Except DecodeReject Instr :=
  match (fieldN w).val with
  | 0x0 => .ok (.ldReg (fieldX w) (fieldY w))
  | 0x1 => .ok (.or (fieldX w) (fieldY w))
  | 0x2 => .ok (.and (fieldX w) (fieldY w))
  | 0x3 => .ok (.xor (fieldX w) (fieldY w))
  | 0x4 => .ok (.addReg (fieldX w) (fieldY w))
  | 0x5 => .ok (.subReg (fieldX w) (fieldY w))
  | 0x6 => .ok (.shr (fieldX w) (fieldY w))
  | 0x7 => .ok (.subn (fieldX w) (fieldY w))
  | 0xE => .ok (.shl (fieldX w) (fieldY w))
  | _ => .error (.aluSelector (fieldN w))

/-- Top nibble 0x9: the low nibble is 0 (R85). -/
def decodeSneReg (w : Word) : Except DecodeReject Instr :=
  if (fieldN w).val = 0x0 then .ok (.sneReg (fieldX w) (fieldY w)) else .error (.sneSelector (fieldN w))

/-- Top nibble 0xE: the low byte is 0x9E or 0xA1 (R85). -/
def decodeKey (w : Word) : Except DecodeReject Instr :=
  match (fieldKK w).toNat with
  | 0x9E => .ok (.skp (fieldX w))
  | 0xA1 => .ok (.sknp (fieldX w))
  | _ => .error (.keySelector (fieldKK w))

/-- Top nibble 0xF: the low byte selects one of nine operations (R85). -/
def decodeMisc (w : Word) : Except DecodeReject Instr :=
  match (fieldKK w).toNat with
  | 0x07 => .ok (.ldVxDt (fieldX w))
  | 0x0A => .ok (.ldVxK (fieldX w))
  | 0x15 => .ok (.ldDtVx (fieldX w))
  | 0x18 => .ok (.ldStVx (fieldX w))
  | 0x1E => .ok (.addI (fieldX w))
  | 0x29 => .ok (.ldF (fieldX w))
  | 0x33 => .ok (.ldB (fieldX w))
  | 0x55 => .ok (.storeRegs (fieldX w))
  | 0x65 => .ok (.loadRegs (fieldX w))
  | _ => .error (.miscSelector (fieldKK w))

/-- `Decode(w)` of R85: dispatch on the top nibble. Top nibble 0x5 ignores the low nibble (R89). A nibble is at most
0xF, so the last arm is the 0xF family. -/
def decode (w : Word) : Except DecodeReject Instr :=
  match topNibble w with
  | 0x0 => .ok (decodeSystem w)
  | 0x1 => .ok (.jp (fieldNNN w))
  | 0x2 => .ok (.call (fieldNNN w))
  | 0x3 => .ok (.seImm (fieldX w) (fieldKK w))
  | 0x4 => .ok (.sneImm (fieldX w) (fieldKK w))
  | 0x5 => .ok (.seReg (fieldX w) (fieldY w))
  | 0x6 => .ok (.ldImm (fieldX w) (fieldKK w))
  | 0x7 => .ok (.addImm (fieldX w) (fieldKK w))
  | 0x8 => decodeAlu w
  | 0x9 => decodeSneReg w
  | 0xA => .ok (.ldI (fieldNNN w))
  | 0xB => .ok (.jpOff (fieldNNN w))
  | 0xC => .ok (.rnd (fieldX w) (fieldKK w))
  | 0xD => .ok (.drw (fieldX w) (fieldY w) (fieldN w))
  | 0xE => decodeKey w
  | _ => decodeMisc w

/-- The word two cells hold: the cell at the lower address is the high byte (R53; decision D1). -/
def wordOfBytes (hi lo : Byte) : Word := hi ++ lo

/-- The high byte of a word, stored at the lower address (R53). -/
def highByte (w : Word) : Byte := w.extractLsb' 8 8
/-- The low byte of a word, stored at the higher address (R53). -/
def lowByte (w : Word) : Byte := w.extractLsb' 0 8

/-- Decode the instruction at the head of a list of bytes, with the bytes that follow it (R81: always two). -/
def decodeBytes : List Byte → Except DecodeReject (Instr × List Byte)
  | hi :: lo :: rest =>
    match decode (wordOfBytes hi lo) with
    | .ok i => .ok (i, rest)
    | .error e => .error e
  | _ => .error .truncated

/-- The instruction word whose bits spec/opcode_table.json numbers as `w`; the bits at `nbits` and above are 0. -/
def tableWord (nbits w : Nat) : Word := BitVec.ofNat 16 (w % 2 ^ nbits)

/-- The decoder's reading of a word given in the opcode table's own numbering of bits. -/
def decodeTableWord (nbits w : Nat) : Option Instr :=
  match decodeBytes [highByte (tableWord nbits w), lowByte (tableWord nbits w)] with
  | .ok (i, _) => some i
  | .error _ => none

/-! ## The encoder -/

/-- Format NNN (R82). -/
def packNNN (op : BitVec 4) (nnn : Addr12) : Word := op ++ nnn
/-- Format XKK, and XSS with the selector byte in the place of `kk` (R82). -/
def packXKK (op : BitVec 4) (x : Reg) (kk : Byte) : Word := op ++ (BitVec.ofFin (w := 4) x ++ kk : BitVec 12)
/-- Formats XYN and XYS, the last nibble a count or a selector (R82). -/
def packXYN (op : BitVec 4) (x y : Reg) (n : Count) : Word :=
  op ++ (BitVec.ofFin (w := 4) x ++ (BitVec.ofFin (w := 4) y ++ BitVec.ofFin (w := 4) n : BitVec 8) : BitVec 12)

/-- The word of an instruction (R82, R86). The ignored low nibble of `5xy-` is written 0 (R89). -/
def encode : Instr → Word
  | .sys nnn => packNNN 0x0 nnn
  | .cls => 0x00E0
  | .ret => 0x00EE
  | .jp nnn => packNNN 0x1 nnn
  | .call nnn => packNNN 0x2 nnn
  | .seImm x kk => packXKK 0x3 x kk
  | .sneImm x kk => packXKK 0x4 x kk
  | .seReg x y => packXYN 0x5 x y 0x0
  | .ldImm x kk => packXKK 0x6 x kk
  | .addImm x kk => packXKK 0x7 x kk
  | .ldReg x y => packXYN 0x8 x y 0x0
  | .or x y => packXYN 0x8 x y 0x1
  | .and x y => packXYN 0x8 x y 0x2
  | .xor x y => packXYN 0x8 x y 0x3
  | .addReg x y => packXYN 0x8 x y 0x4
  | .subReg x y => packXYN 0x8 x y 0x5
  | .shr x y => packXYN 0x8 x y 0x6
  | .subn x y => packXYN 0x8 x y 0x7
  | .shl x y => packXYN 0x8 x y 0xE
  | .sneReg x y => packXYN 0x9 x y 0x0
  | .ldI nnn => packNNN 0xA nnn
  | .jpOff nnn => packNNN 0xB nnn
  | .rnd x kk => packXKK 0xC x kk
  | .drw x y n => packXYN 0xD x y n
  | .skp x => packXKK 0xE x 0x9E
  | .sknp x => packXKK 0xE x 0xA1
  | .ldVxDt x => packXKK 0xF x 0x07
  | .ldVxK x => packXKK 0xF x 0x0A
  | .ldDtVx x => packXKK 0xF x 0x15
  | .ldStVx x => packXKK 0xF x 0x18
  | .addI x => packXKK 0xF x 0x1E
  | .ldF x => packXKK 0xF x 0x29
  | .ldB x => packXKK 0xF x 0x33
  | .storeRegs x => packXKK 0xF x 0x55
  | .loadRegs x => packXKK 0xF x 0x65

/-- The two cells of an instruction, the one at the lower address first (R53, R81). -/
def encodeBytes (i : Instr) : List Byte := [highByte (encode i), lowByte (encode i)]

/-! ## The opcode map as a table (R86) -/

/-- The bits of the row of R86 an instruction belongs to that the row fixes. -/
def Instr.rowMask : Instr → Word
  | .cls | .ret => 0xFFFF
  | .sys _ | .jp _ | .call _ | .ldI _ | .jpOff _ => 0xF000
  | .seImm _ _ | .sneImm _ _ | .ldImm _ _ | .addImm _ _ | .rnd _ _ => 0xF000
  | .seReg _ _ | .drw _ _ _ => 0xF000
  | .ldReg _ _ | .or _ _ | .and _ _ | .xor _ _ | .addReg _ _ | .subReg _ _ | .shr _ _ | .subn _ _ | .shl _ _ => 0xF00F
  | .sneReg _ _ => 0xF00F
  | .skp _ | .sknp _ => 0xF0FF
  | .ldVxDt _ | .ldVxK _ | .ldDtVx _ | .ldStVx _ | .addI _ | .ldF _ | .ldB _ | .storeRegs _ | .loadRegs _ => 0xF0FF

/-- The values of those bits: each pattern of R86 with its operand nibbles 0. -/
def Instr.rowMatch : Instr → Word
  | .sys _ => 0x0000
  | .cls => 0x00E0
  | .ret => 0x00EE
  | .jp _ => 0x1000
  | .call _ => 0x2000
  | .seImm _ _ => 0x3000
  | .sneImm _ _ => 0x4000
  | .seReg _ _ => 0x5000
  | .ldImm _ _ => 0x6000
  | .addImm _ _ => 0x7000
  | .ldReg _ _ => 0x8000
  | .or _ _ => 0x8001
  | .and _ _ => 0x8002
  | .xor _ _ => 0x8003
  | .addReg _ _ => 0x8004
  | .subReg _ _ => 0x8005
  | .shr _ _ => 0x8006
  | .subn _ _ => 0x8007
  | .shl _ _ => 0x800E
  | .sneReg _ _ => 0x9000
  | .ldI _ => 0xA000
  | .jpOff _ => 0xB000
  | .rnd _ _ => 0xC000
  | .drw _ _ _ => 0xD000
  | .skp _ => 0xE09E
  | .sknp _ => 0xE0A1
  | .ldVxDt _ => 0xF007
  | .ldVxK _ => 0xF00A
  | .ldDtVx _ => 0xF015
  | .ldStVx _ => 0xF018
  | .addI _ => 0xF01E
  | .ldF _ => 0xF029
  | .ldB _ => 0xF033
  | .storeRegs _ => 0xF055
  | .loadRegs _ => 0xF065

end Sys2Proof
end

