-- ==== Sys2Proof/Machine/State.lean ====
section
/-!
DEFINITION. The state of the core as plain data (spec 10_state.md R20 to R36, 70_reset_and_hazards.md R250), the faults
of 60_exceptions.md R201, why a step has no next state, and the state right after reset.
-/

namespace Sys2Proof.Machine

/-- A phase of the scheduler (R230). -/
inductive Phase where
  | init
  | check
  | service
  | execute
  | final
  | halted
  | faulted
deriving DecidableEq, Repr

/-- What the core has last commanded of the sound gate (R216, R250: nothing before the first tick). -/
inductive SoundGate where
  | notCommanded
  | resumed
  | paused
deriving DecidableEq, Repr

/-- A piece of state that can hold no value under `RESET_POLICY` = `Unwritten` (R22); the item F_UNWRITTEN records
(R201 row 9). -/
inductive Item where
  | v (x : Reg)
  | index
  | stack (j : Fin stackDepth)
  | cell (addr : Nat)
deriving DecidableEq, Repr

/-- A fault with the info it records (R201); the address `a` stands beside it in `FaultRecord`. -/
inductive FaultKind where
  /-- F_DECODE: the word -/
  | decode (w : Word)
  /-- F_FETCH_RANGE: the program counter -/
  | fetchRange (pc : Word)
  /-- F_MEM_RANGE: the lowest failing address, an exact integer (R57) -/
  | memRange (addr : Nat)
  /-- F_STACK_OVERFLOW: `SP` -/
  | stackOverflow (sp : Byte)
  /-- F_STACK_UNDERFLOW: `SP` -/
  | stackUnderflow (sp : Byte)
  /-- F_GLYPH_WRITE: the lowest failing address -/
  | glyphWrite (addr : Nat)
  /-- F_KEY_RANGE: `V[x]` -/
  | keyRange (value : Byte)
  /-- F_CAPABILITY: the call -/
  | capability (call : CapCall)
  /-- F_UNWRITTEN: the item read -/
  | unwritten (item : Item)
deriving DecidableEq, Repr

/-- The fault record of R200: the fault with its info, and the address of the instruction being executed or fetched
(`none` for a capability call of the scheduler, which belongs to no instruction; log 6). -/
structure FaultRecord where
  kind : FaultKind
  addr : Option Word
deriving DecidableEq, Repr

/-- The pixel buffer, a `W` × `H` grid of single bits (R30): pixel (x, y) is bit `y * W + x` (log 5). -/
structure PixelBuffer where
  bits : Nat
deriving DecidableEq, Repr

/-- Memory: the cells that differ from what an unlisted cell reads as, in rising order of address (R31, R50). -/
abbrev Memory := List Host.Cell

/-- The state of the core (R5, R20 to R34), and below it the model's own three fields. -/
structure State where
  /-- V0-VF (R20, R21) -/
  v : Vector Byte 16
  /-- the program counter (R23) -/
  pc : Word
  /-- the index register `I` (R25) -/
  index : Word
  /-- the stack pointer: how many return addresses the stack holds (R26) -/
  sp : Byte
  /-- the call stack (R27) -/
  stack : Vector Word stackDepth
  /-- the delay timer (R28) -/
  dt : Byte
  /-- the sound timer (R29) -/
  st : Byte
  /-- the pixel buffer (R30) -/
  pix : PixelBuffer
  /-- the memory (R31) -/
  mem : Memory
  /-- the scheduler phase (R34, R230) -/
  phase : Phase
  /-- the fault record, never cleared (R34, R200) -/
  faultRecord : Option FaultRecord
  /-- the sound gate as last commanded (R34, R216) -/
  soundGate : SoundGate
  /-- the registers and slots that hold no value yet, empty under `RESET_POLICY` = `Zero` (R22) -/
  blank : List Item
  /-- the parameters of the run, which no step changes (R7, R35) -/
  config : Config
  /-- the model's own output port: the requests issued in the step that led here, oldest first (R225; log 9) -/
  calls : List CapCall
  /-- the model's own input port: the answers of the steps to come, one entry a step; beyond its end the answers are
  the free value `Config.freeAnswers` (R225; log 10) -/
  inputs : List Answers
  /-- the model's own counter of steps, which keeps one free value from another (log 10) -/
  draws : Nat
deriving DecidableEq, Repr

/-- Why the machine has no next state although nothing refuses the instruction. -/
inductive Fault where
  /-- Raised by a step in phase FAULTED, which no transition leaves (R200, R230): the fault the run ended with. Safe:
  the core does nothing after it either. -/
  | runFaulted (record : Option FaultRecord)
  /-- Raised by the step, the instruction or the `boot` whose capability call is never answered: the run waits at that
  point for ever and has no next step (R226, decision D30; log 17). Safe: the core takes no step there either. -/
  | waitsForever (call : CapCall)
deriving DecidableEq, Repr

/-- Why a step, or a configuration, is turned away. -/
inductive Refusal where
  /-- Raised by an arm of `exec` for an instruction with no meaning yet; no arm does. Safe. -/
  | notModelled (mnemonic : String)
  /-- Raised by a step in phase HALTED, which no transition leaves: the run has ended well (R230, R233). Safe. -/
  | runHalted
  /-- Raised by `boot` for parameters or an image that never reach the core: no core is constructed (R234, R251, R252;
  log 32). No step raises it. Safe. -/
  | illegalConfiguration
deriving DecidableEq, Repr

/-- The answers `State.reset` presents for its first step, where the spec constrains none (log 10): every call returns,
no close is requested, no tick is due, the budget has elapsed, no key is down, key 0 answers a wait. -/
def quietAnswers : Answers where
  init := .returns ()
  shouldClose := .returns false
  drawScreen := .returns ()
  update := .returns ()
  tickDue := false
  sound := .returns ()
  budgetElapsed := true
  keys := .returns 0
  waitForKey := .returns (.key 0)
  finalize := .returns ()
  draw8 := 0

/-- Every register and stack slot: what holds no value at reset under `RESET_POLICY` = `Unwritten` (R22). -/
def allItems : List Item :=
  (List.finRange 16).map Item.v ++ .index :: (List.finRange stackDepth).map Item.stack

/-- The state after steps (1) to (4) of R250 under the parameters `c`, with no image loaded. `W` and `H` have just been
queried (R225, R250). Every answer to come is free. -/
def State.resetWith (c : Config) : State where
  v := Vector.replicate 16 0
  pc := BitVec.ofNat 16 progBase
  index := 0
  sp := 0
  stack := Vector.replicate stackDepth 0
  dt := 0
  st := 0
  pix := ⟨0⟩
  mem := []
  phase := .init
  faultRecord := none
  soundGate := .notCommanded
  blank := match c.resetPolicy with
    | .zero => []
    | .unwritten => allItems
  config := c
  calls := [.width, .height]
  inputs := []
  draws := 0

/-- The answers of the steps to come are these, and free beyond them (log 10). -/
def State.presenting (answers : List Answers) (s : State) : State := { s with inputs := answers }

/-- The machine right after reset under the default parameters (R7, R250); one step can be evaluated from it (log 10). -/
def State.reset : State := (State.resetWith Config.default).presenting [quietAnswers]

end Sys2Proof.Machine
end

