-- ==== Sys2Proof/Machine/Ops.lean ====
section
/-!
DEFINITION. The shared operations on the state: raising a fault, the register accessors, memory and its primitives
(spec 20_memory.md R55, R56), the capability channel (60_exceptions.md R225) and program load (R251). Operations that
may stop take what follows as a continuation, so a meaning reads in the order of the spec's pseudocode.
-/

namespace Sys2Proof.Machine

/-- What a meaning or a step answers. -/
abbrev Result := Host.Outcome State Fault Refusal

/-! ## Raising a fault (R200) -/

/-- The state a fault leaves: the record written and the phase FAULTED, nothing else changed (R200, R204). There is no
return from a fault (R206): no operation leaves FAULTED. -/
def State.enterFault (at? : Option Word) (k : FaultKind) (s : State) : State :=
  { s with phase := .faulted, faultRecord := some ⟨k, at?⟩ }

/-- `raise F_<NAME>(info)` (R10, R200), with the address of the instruction where there is one. -/
def raise (at? : Option Word) (k : FaultKind) (s : State) : Result := .next (s.enterFault at? k)

/-- The address `a` of the instruction being executed: `pc` already holds `a + 2` (R23, R80; log 7). -/
def State.instrAddr (s : State) : Word := s.pc - 2

/-- A fault raised by the instruction being executed. -/
def raiseHere (k : FaultKind) (s : State) : Result := raise (some s.instrAddr) k s

/-- The cause code of a fault (R201). -/
def FaultKind.code : FaultKind → Nat
  | .decode _ => 1
  | .fetchRange _ => 2
  | .memRange _ => 3
  | .stackOverflow _ => 4
  | .stackUnderflow _ => 5
  | .glyphWrite _ => 6
  | .keyRange _ => 7
  | .capability _ => 8
  | .unwritten _ => 9

/-- The name of a fault (R201). -/
def FaultKind.name : FaultKind → String
  | .decode _ => "F_DECODE"
  | .fetchRange _ => "F_FETCH_RANGE"
  | .memRange _ => "F_MEM_RANGE"
  | .stackOverflow _ => "F_STACK_OVERFLOW"
  | .stackUnderflow _ => "F_STACK_UNDERFLOW"
  | .glyphWrite _ => "F_GLYPH_WRITE"
  | .keyRange _ => "F_KEY_RANGE"
  | .capability _ => "F_CAPABILITY"
  | .unwritten _ => "F_UNWRITTEN"

/-! ## Registers (R10, R20 to R29) -/

/-- The items left blank once `it` has been written (R22). -/
def fill (it : Item) (blank : List Item) : List Item := blank.filter (· ≠ it)

/-- `V[x] <- b`. -/
def State.setV (x : Reg) (b : Byte) (s : State) : State :=
  { s with v := s.v.set x b, blank := fill (.v x) s.blank }

/-- `I <- w`. -/
def State.setIndex (w : Word) (s : State) : State :=
  { s with index := w, blank := fill .index s.blank }

/-- `Stack[j] <- w`. -/
def State.setStack (j : Fin stackDepth) (w : Word) (s : State) : State :=
  { s with stack := s.stack.set j w, blank := fill (.stack j) s.blank }

/-- `pc <- w`. -/
def State.setPc (w : Word) (s : State) : State := { s with pc := w }

/-- `SP <- b`. -/
def State.setSp (b : Byte) (s : State) : State := { s with sp := b }

/-- `DT <- b`. -/
def State.setDt (b : Byte) (s : State) : State := { s with dt := b }

/-- `ST <- b`. -/
def State.setSt (b : Byte) (s : State) : State := { s with st := b }

/-- The pixel buffer replaced. -/
def State.setPix (p : PixelBuffer) (s : State) : State := { s with pix := p }

/-- The scheduler moves to a phase (R230). -/
def State.setPhase (p : Phase) (s : State) : State := { s with phase := p }

/-- A read of a register or slot, which F_UNWRITTEN stops where it holds no value yet (R22, R201 row 9). -/
def readItem {α : Type} (it : Item) (value : α) (s : State) (k : α → Result) : Result :=
  if it ∈ s.blank then raiseHere (.unwritten it) s else k value

/-- `V[x]`. -/
def readV (x : Reg) (s : State) (k : Byte → Result) : Result := readItem (.v x) s.v[x] s k

/-- `I`. -/
def readIndex (s : State) (k : Word → Result) : Result := readItem .index s.index s k

/-- `Stack[j]`. -/
def readStack (j : Fin stackDepth) (s : State) (k : Word → Result) : Result := readItem (.stack j) s.stack[j] s k

/-- The values of several registers, in the order of the list. -/
def readRegs : List Reg → State → (List Byte → Result) → Result
  | [], _, k => k []
  | x :: xs, s, k => readV x s fun b => readRegs xs s fun bs => k (b :: bs)

/-- Registers written from a list of values, in the order of the list. -/
def State.setRegs : List Reg → List Byte → State → State
  | x :: xs, b :: bs, s => State.setRegs xs bs (s.setV x b)
  | _, _, s => s

/-! ## Memory (R31, R50 to R57) -/

/-- What a cell reads as that no entry lists: its reset content (R31, R33, R52), or no value under `Unwritten` (R22). -/
def unlisted (c : Config) (a : Nat) : Option Byte :=
  if h : a < glyphBytes then some c.glyphTable[a]
  else match c.resetPolicy with
    | .zero => some 0
    | .unwritten => none

/-- The entry that lists a cell. -/
def Memory.lookup : Memory → Nat → Option Byte
  | [], _ => none
  | (b, v) :: m, a => if b = a then some v else Memory.lookup m a

/-- The content of a cell, if it holds a value. -/
def Memory.get (c : Config) (m : Memory) (a : Nat) : Option Byte :=
  match m.lookup a with
  | some v => some v
  | none => unlisted c a

/-- List a cell, in its place in the rising order. -/
def Memory.insert (a : Nat) (v : Byte) : Memory → Memory
  | [] => [(a, v)]
  | (b, w) :: m =>
    if a < b then (a, v) :: (b, w) :: m
    else if a = b then (a, v) :: m
    else (b, w) :: Memory.insert a v m

/-- List a cell no more. -/
def Memory.erase (a : Nat) (m : Memory) : Memory := m.filter (·.1 ≠ a)

/-- Store a value in a cell, keeping the canonical form. -/
def Memory.put (c : Config) (a : Nat) (v : Byte) (m : Memory) : Memory :=
  if unlisted c a = some v then m.erase a else m.insert a v

/-- The canonical form: addresses strictly rising and inside the address space (R50), no entry equal to what an
unlisted cell reads as. -/
abbrev Memory.wf (c : Config) (m : Memory) : Prop :=
  m.Pairwise (·.1 < ·.1) ∧ ∀ e ∈ m, e.1 < memSize ∧ unlisted c e.1 ≠ some e.2

/-- The content of the cell at `a`. -/
def State.cell (s : State) (a : Nat) : Option Byte := s.mem.get s.config a

/-- `mem[a] <- b`. -/
def State.setCell (a : Nat) (b : Byte) (s : State) : State := { s with mem := s.mem.put s.config a b }

/-- Consecutive cells written from `a` upwards. -/
def State.setCells : Nat → List Byte → State → State
  | _, [], s => s
  | a, b :: bs, s => State.setCells (a + 1) bs (s.setCell a b)

/-- The check of `MemRead` (R55). -/
def readFault (a : Nat) : Option FaultKind := if a < memSize then none else some (.memRange a)

/-- The checks of `MemWrite`, in its order (R56). -/
def writeFault (c : Config) (a : Nat) : Option FaultKind :=
  if memSize ≤ a then some (.memRange a)
  else if a < glyphBytes ∧ c.glyphWritePolicy = .fault then some (.glyphWrite a)
  else none

/-- Check every address before anything is written, and raise the fault of the first that fails (R153). -/
def checkAll (check : Nat → Option FaultKind) (addrs : List Nat) (s : State) (k : Result) : Result :=
  match addrs.findSome? check with
  | some f => raiseHere f s
  | none => k

/-- The content of a cell, for the instruction or fetch at `at?`; F_UNWRITTEN where it holds no value (R201 row 9). -/
def readCell (at? : Word) (a : Nat) (s : State) (k : Byte → Result) : Result :=
  match s.cell a with
  | some b => k b
  | none => raise (some at?) (.unwritten (.cell a)) s

/-- The contents of several cells, for the instruction being executed. -/
def readCells : List Nat → State → (List Byte → Result) → Result
  | [], _, k => k []
  | a :: as, s, k => readCell s.instrAddr a s fun b => readCells as s fun bs => k (b :: bs)

/-! ## Control flow (R80, R124) -/

/-- The width of an instruction in cells (R81). -/
abbrev instrWidth : Word := 2

/-- Move `pc` past one instruction word (R80, R124). -/
def State.advance (s : State) : State := s.setPc (s.pc + instrWidth)

/-- The skip mechanism common to SE, SNE, SKP and SKNP (R124). -/
def State.skipIf (cond : Bool) (s : State) : State := if cond then s.advance else s

/-! ## The capability channel (R225, R226) -/

/-- The answers presented to the step that starts in this state (log 10). -/
def State.answers (s : State) : Answers :=
  match s.inputs with
  | a :: _ => a
  | [] => Config.freeAnswers s.draws

/-- The next step is presented the next answers. -/
def State.nextAnswers (s : State) : State := { s with inputs := s.inputs.tail, draws := s.draws + 1 }

/-- A request goes out. -/
def State.issue (call : CapCall) (s : State) : State := { s with calls := s.calls ++ [call] }

/-- No request has gone out yet in this step. -/
def State.clearCalls (s : State) : State := { s with calls := [] }

/-- One request and its response: the core goes on with the value, raises F_CAPABILITY, or waits for ever (R201 row 8,
R225, R226). `at?` is the instruction that calls, if one does. -/
def request {α : Type} (at? : Option Word) (call : CapCall) (answer : Response α) (s : State)
    (k : α → State → Result) : Result :=
  match answer with
  | .returns value => k value (s.issue call)
  | .fails => raise at? (.capability call) (s.issue call)
  | .noAnswer => .fault (.waitsForever call)

/-! ## Boot (R250 to R252) -/

/-- The image placed verbatim from `PROG_BASE` on (R251). It does not go through `MemWrite`. -/
def State.placeImage (image : List Byte) (s : State) : State := s.setCells progBase image

/-- Load an image; one above 0xE00 bytes is turned away (R251; decision D27). -/
def State.loadImage (image : List Byte) (s : State) : Option State :=
  if image.length ≤ maxImage then some (s.placeImage image) else none

/-- The construction of the core (R250, R252). An illegal configuration never reaches it (R234, R251; log 32). Else
`width()` and `height()` are asked, which fail or go unanswered like any call and return the parameters `W` and `H`
(R201 row 8, R225, R226); the state is reset, the image loaded, and `answers` are what its steps will be answered. -/
def boot (c : Config) (image : List Byte) (width height : Response Unit) (answers : List Answers) : Result :=
  if c.Legal ∧ image.length ≤ maxImage then
    request none .width width (State.resetWith c).clearCalls fun _ s =>
    request none .height height s fun _ s => .next ((s.placeImage image).presenting answers)
  else .refused .illegalConfiguration

end Sys2Proof.Machine
end

