-- ==== Sys2Proof/Machine/Operands.lean ====
section
/-!
DEFINITION. The operand forms: how an immediate, an address, a register count or a register value becomes a value, an
address or a list of cells (spec 30_encoding.md R83, 20_memory.md R57, 44_index_memory.md R153).
-/

namespace Sys2Proof.Machine

/-- `zext_16(nnn)` (R83). -/
def zextAddr (nnn : Addr12) : Word := nnn.setWidth 16

/-- `zext_16` of a register value (R114, R151). -/
def zextByte (b : Byte) : Word := b.setWidth 16

/-- The exact addresses `base`, `base + 1`, … of `n` cells, which never wrap (R57, R153). -/
def cellsFrom (base : Word) (n : Nat) : List Nat := (List.range n).map (base.toNat + ·)

/-- Registers V0 to `V[x]`, both ends included (R155, R156). -/
def regsUpTo (x : Reg) : List Reg := (List.finRange 16).take (x.val + 1)

/-- The address of the glyph for the low nibble of a value (R152). -/
def glyphAddr (b : Byte) : Word := BitVec.ofNat 16 (glyphBase + glyphStride * (b &&& 0x0F#8).toNat)

/-- Hundreds, tens and units of a value (R154). -/
def bcdDigits (b : Byte) : List Byte :=
  [BitVec.ofNat 8 (b.toNat / 100), BitVec.ofNat 8 (b.toNat / 10 % 10), BitVec.ofNat 8 (b.toNat % 10)]

/-- The key a register value names; F_KEY_RANGE above 0x0F (R186; decision D18). -/
def readKey (b : Byte) (s : State) (k : Key → Result) : Result :=
  if h : b.toNat < 16 then k ⟨b.toNat, h⟩ else raiseHere (.keyRange b) s

/-- `n` cells from `I` on, for reading: `I` is read only if there is a cell to address, every address is checked first
(R153, R171), then the contents are read. -/
def readBlock (n : Nat) (s : State) (k : List Byte → Result) : Result :=
  if n = 0 then k []
  else readIndex s fun base => checkAll readFault (cellsFrom base n) s (readCells (cellsFrom base n) s k)

/-- `n` cells from `I` on, for writing: the base, once every address is checked (R153, R154, R155). -/
def withWritable (n : Nat) (s : State) (k : Nat → Result) : Result :=
  readIndex s fun base => checkAll (writeFault s.config) (cellsFrom base n) s (k base.toNat)

/-- The value a wait for a key writes (R181; decision D19). -/
def keyValue (c : Config) : KeyEvent → Byte
  | .key d => BitVec.ofNat 8 d.val
  | .interrupted => c.keySentinel

/-! ## Pixels (R30, R171) -/

/-- The bit of pixel (x, y). -/
def pixelIndex (c : Config) (x y : Nat) : Nat := y * c.width + x

/-- `Pix[y][x]`. -/
def State.pixel (s : State) (x y : Nat) : Bool := s.pix.bits.testBit (pixelIndex s.config x y)

/-- The columns of a sprite byte whose bit is 1, left to right; bit 7 is column 0 (R171; decision D16). -/
def setColumns (b : Byte) : List Nat := (List.range 8).filter fun c => b.getLsbD (7 - c)

/-- The destination of each 1 bit of a sprite, in the order R171 draws them; both coordinates wrap. -/
def spritePixels (c : Config) (x0 y0 : Nat) : List Byte → List (Nat × Nat)
  | [] => []
  | b :: rows =>
    (setColumns b).map (fun col => ((x0 + col) % c.width, y0 % c.height)) ++ spritePixels c x0 (y0 + 1) rows

/-- Toggle the pixels of a list in turn; true once one of them was set before its turn (R171). -/
def togglePixels (c : Config) : List (Nat × Nat) → Nat × Bool → Nat × Bool
  | [], acc => acc
  | (x, y) :: ps, (bits, hit) =>
    togglePixels c ps (bits ^^^ 1 <<< pixelIndex c x y, hit || bits.testBit (pixelIndex c x y))

end Sys2Proof.Machine
end

