-- ==== Sys2Proof/Machine/ControlFlow.lean ====
section
/-!
DEFINITION. SYS, RET, CALL, JP and JP V0 (spec 41_control_flow.md). Each runs with `pc` already past its own word (R80).
-/

namespace Sys2Proof.Machine

/-- SYS nnn: no operation; its operand is ignored (R110). -/
def execSys (_nnn : Addr12) (s : State) : Result := .next s

/-- RET (R111; decisions D5, D29). -/
def execRet (s : State) : Result :=
  if s.sp.toNat = 0 then raiseHere (.stackUnderflow s.sp) s
  else if h : s.sp.toNat ≤ stackDepth then
    readStack ⟨s.sp.toNat - 1, by have := h; simp only [stackDepth] at *; omega⟩ s fun target =>
      .next ((s.setSp (s.sp - 1)).setPc target)
  else raiseHere (.stackOverflow s.sp) s

/-- CALL nnn: the pushed address is the advanced `pc` (R112; decision D5, conflict C3). -/
def execCall (nnn : Addr12) (s : State) : Result :=
  if h : s.sp.toNat < stackDepth then
    .next (((s.setStack ⟨s.sp.toNat, h⟩ s.pc).setSp (s.sp + 1)).setPc (zextAddr nnn))
  else raiseHere (.stackOverflow s.sp) s

/-- JP nnn (R113). -/
def execJp (nnn : Addr12) (s : State) : Result := .next (s.setPc (zextAddr nnn))

/-- JP V0, nnn: the register is `JUMP_OFFSET_REG` (R114; decision D14). -/
def execJpOff (nnn : Addr12) (s : State) : Result :=
  readV s.config.jumpOffsetReg s fun off => .next (s.setPc (zextAddr nnn + zextByte off))

end Sys2Proof.Machine
end

