-- ==== Sys2Proof/Machine/Flags.lean ====
section
/-!
DEFINITION. The one flags register VF (spec 10_state.md R21): every flag computation, and the order in which a result
and its flag are written (43_register_alu.md R130).
-/

namespace Sys2Proof.Machine

/-- VF, register 15 (R10, R21). -/
abbrev vf : Reg := 15

/-- A flag as the byte VF takes: 1 or 0 (R32). -/
def flagByte (f : Bool) : Byte := if f then 1 else 0

/-- Carry: the true sum exceeds 255 (R137). -/
def carry (a b : Byte) : Bool := decide (255 < a.toNat + b.toNat)

/-- No-borrow, read as strictly greater (R138, R140; conflict C1, decision D10). -/
def greater (a b : Byte) : Bool := decide (b.toNat < a.toNat)

/-- The bit a right shift drops (R139). -/
def lowBit (a : Byte) : Bool := a.getLsbD 0

/-- The test of the bit a left shift drops: non-zero or zero (R141). -/
def highBitSet (a : Byte) : Bool := a &&& 0x80#8 != 0

/-- `VF <- flag`. -/
def State.setFlag (f : Bool) (s : State) : State := s.setV vf (flagByte f)

/-- Result and flag of ADD, SUB and SUBN, in the order of `ARITH_FLAG_LAST` (R137, R138, R140; decision D8). -/
def State.writeArith (x : Reg) (result : Byte) (flag : Bool) (s : State) : State :=
  if s.config.arithFlagLast then (s.setV x result).setFlag flag else (s.setFlag flag).setV x result

/-- Result and flag of SHR and SHL, in the order of `SHIFT_FLAG_FIRST`; flag first, the shift reads `V[x]` after the
flag is written (R139, R141; decision D9). -/
def State.writeShift (x : Reg) (shift : Byte → Byte) (flag : Byte → Bool) (s : State) : State :=
  if s.config.shiftFlagFirst then
    (s.setFlag (flag s.v[x])).setV x (shift (s.setFlag (flag s.v[x])).v[x])
  else (s.setV x (shift s.v[x])).setFlag (flag s.v[x])

end Sys2Proof.Machine
end

