-- ==== Sys2Proof/Machine/Display.lean ====
section
/-!
DEFINITION. The pixel-buffer writer (spec 45_display.md R170 to R172).
-/

namespace Sys2Proof.Machine

/-- CLS: every pixel 0, VF untouched (R170). -/
def execCls (s : State) : Result := .next (s.setPix ⟨0⟩)

/-- A sprite drawn from pixel (x0, y0) on, VF the collision flag (R171). -/
def State.drawSprite (x0 y0 : Nat) (rows : List Byte) (s : State) : State :=
  let drawn := togglePixels s.config (spritePixels s.config x0 y0 rows) (s.pix.bits, false)
  (s.setFlag drawn.2).setPix ⟨drawn.1⟩

/-- DRW Vx, Vy, N: the coordinates are read before VF is written, and all `n` cells before anything is (R153, R171;
decisions D16, D23). -/
def execDrw (x y : Reg) (n : Count) (s : State) : Result :=
  readV x s fun x0 => readV y s fun y0 => readBlock n.val s fun rows =>
    .next (s.drawSprite x0.toNat y0.toNat rows)

end Sys2Proof.Machine
end

