-- ==== Sys2Proof/Machine/IndexMemory.lean ====
section
/-!
DEFINITION. The index register and the memory block instructions (spec 44_index_memory.md R150 to R156).
-/

namespace Sys2Proof.Machine

/-- LD I, nnn (R150). -/
def execLdI (nnn : Addr12) (s : State) : Result := .next (s.setIndex (zextAddr nnn))

/-- ADD I, Vx: modulo 2^16, no flag (R151; decision D13). -/
def execAddI (x : Reg) (s : State) : Result :=
  readIndex s fun base => readV x s fun a => .next (s.setIndex (base + zextByte a))

/-- LD F, Vx (R152). -/
def execLdF (x : Reg) (s : State) : Result :=
  readV x s fun a => .next (s.setIndex (glyphAddr a))

/-- LD B, Vx (R153, R154). -/
def execLdB (x : Reg) (s : State) : Result :=
  readV x s fun a => withWritable 3 s fun base => .next (s.setCells base (bcdDigits a))

/-- LD [I], Vx: V0 to `V[x]` (R153, R155). -/
def execStoreRegs (x : Reg) (s : State) : Result :=
  withWritable (x.val + 1) s fun base => readRegs (regsUpTo x) s fun bytes => .next (s.setCells base bytes)

/-- LD Vx, [I]: V0 to `V[x]` (R153, R156). -/
def execLoadRegs (x : Reg) (s : State) : Result :=
  readBlock (x.val + 1) s fun bytes => .next (s.setRegs (regsUpTo x) bytes)

end Sys2Proof.Machine
end

