-- ==== Sys2Proof/Machine/RegisterAlu.lean ====
section
/-!
DEFINITION. Register loads, the ALU and RND (spec 43_register_alu.md R130 to R143). Sources are read before anything is
written (R130).
-/

namespace Sys2Proof.Machine

/-- LD Vx, kk (R131). -/
def execLdImm (x : Reg) (kk : Byte) (s : State) : Result := .next (s.setV x kk)

/-- ADD Vx, kk: modulo 256, no flag (R132; decision D12). -/
def execAddImm (x : Reg) (kk : Byte) (s : State) : Result :=
  readV x s fun a => .next (s.setV x (a + kk))

/-- LD Vx, Vy (R133). -/
def execLdReg (x y : Reg) (s : State) : Result :=
  readV y s fun b => .next (s.setV x b)

/-- OR Vx, Vy (R134; decision D11). -/
def execOr (x y : Reg) (s : State) : Result :=
  readV x s fun a => readV y s fun b => .next (s.setV x (a ||| b))

/-- AND Vx, Vy (R135; decision D11). -/
def execAnd (x y : Reg) (s : State) : Result :=
  readV x s fun a => readV y s fun b => .next (s.setV x (a &&& b))

/-- XOR Vx, Vy (R136; decision D11). -/
def execXor (x y : Reg) (s : State) : Result :=
  readV x s fun a => readV y s fun b => .next (s.setV x (a ^^^ b))

/-- ADD Vx, Vy with carry (R137). -/
def execAddReg (x y : Reg) (s : State) : Result :=
  readV x s fun a => readV y s fun b => .next (s.writeArith x (a + b) (carry a b))

/-- SUB Vx, Vy (R138). -/
def execSubReg (x y : Reg) (s : State) : Result :=
  readV x s fun a => readV y s fun b => .next (s.writeArith x (a - b) (greater a b))

/-- SHR Vx: a logical shift, `y` unused (R90, R139). -/
def execShr (x _y : Reg) (s : State) : Result :=
  readV x s fun _ => .next (s.writeShift x (· >>> 1) lowBit)

/-- SUBN Vx, Vy: the operands of SUB in the other order (R140; decision D10). `V[y]` is read first, the order in which
the pseudocode names them: the model's choice, since the spec orders no reads inside an expression (log 15). -/
def execSubn (x y : Reg) (s : State) : Result :=
  readV y s fun b => readV x s fun a => .next (s.writeArith x (b - a) (greater b a))

/-- SHL Vx, `y` unused (R90, R141). -/
def execShl (x _y : Reg) (s : State) : Result :=
  readV x s fun _ => .next (s.writeShift x (· <<< 1) highBitSet)

/-- RND Vx, kk: the draw is free (R142; decision D15). -/
def execRnd (x : Reg) (kk : Byte) (s : State) : Result := .next (s.setV x (s.answers.draw8 &&& kk))

end Sys2Proof.Machine
end

