-- ==== Sys2Proof/Machine/Skips.lean ====
section
/-!
DEFINITION. The skips on registers and immediates (spec 42_skips.md R120 to R124).
-/

namespace Sys2Proof.Machine

/-- SE Vx, kk (R120). -/
def execSeImm (x : Reg) (kk : Byte) (s : State) : Result :=
  readV x s fun a => .next (s.skipIf (a == kk))

/-- SNE Vx, kk (R121). -/
def execSneImm (x : Reg) (kk : Byte) (s : State) : Result :=
  readV x s fun a => .next (s.skipIf (a != kk))

/-- SE Vx, Vy (R122). -/
def execSeReg (x y : Reg) (s : State) : Result :=
  readV x s fun a => readV y s fun b => .next (s.skipIf (a == b))

/-- SNE Vx, Vy (R123). -/
def execSneReg (x y : Reg) (s : State) : Result :=
  readV x s fun a => readV y s fun b => .next (s.skipIf (a != b))

end Sys2Proof.Machine
end

