-- ==== Sys2Proof/Machine/TimersKeys.lean ====
section
/-!
DEFINITION. Timer access and key input (spec 46_timers_keys.md R180 to R186).
-/

namespace Sys2Proof.Machine

/-- LD Vx, DT (R180). -/
def execLdVxDt (x : Reg) (s : State) : Result := .next (s.setV x s.dt)

/-- LD Vx, K: no state changes while the call is outstanding; then `V[x]` takes the key, or `KEY_SENTINEL` if a close
request interrupts the wait (R181; decision D19). -/
def execLdVxK (x : Reg) (s : State) : Result :=
  request (some s.instrAddr) .waitForKey s.answers.waitForKey s fun event s =>
    .next (s.setV x (keyValue s.config event))

/-- LD DT, Vx (R182). -/
def execLdDtVx (x : Reg) (s : State) : Result := readV x s fun a => .next (s.setDt a)

/-- LD ST, Vx: the write commands no sound (R183). -/
def execLdStVx (x : Reg) (s : State) : Result := readV x s fun a => .next (s.setSt a)

/-- The question SKP and SKNP ask: is the key that `V[x]` names down (R184, R185, R186)? The call is
non-blocking (R225). -/
def askKey (x : Reg) (s : State) (k : Bool → State → Result) : Result :=
  readV x s fun a => readKey a s fun key =>
    request (some s.instrAddr) (.isKeyPressed key) s.answers.keys.response s fun keys s => k (keys.getLsbD key.val) s

/-- SKP Vx (R184). -/
def execSkp (x : Reg) (s : State) : Result := askKey x s fun down s => .next (s.skipIf down)

/-- SKNP Vx (R185). -/
def execSknp (x : Reg) (s : State) : Result := askKey x s fun down s => .next (s.skipIf (!down))

end Sys2Proof.Machine
end

