-- ==== Sys2Proof/Machine/Scheduler.lean ====
section
/-!
DEFINITION. The instruction cycle (spec 30_encoding.md R80), the timer tick (60_exceptions.md R215, R216) and the
scheduler's phases (R230, R231). One step is one phase: INIT, CHECK, one service iteration, one instruction cycle, or
FINAL (log 4).
-/

namespace Sys2Proof.Machine

/-! ## The instruction cycle -/

/-- `Fetch(pc)`: the range check, then the two cells, high byte first (R53, R59). -/
def fetch (s : State) (k : Word → Result) : Result :=
  if memSize ≤ s.pc.toNat + 1 then raise (some s.pc) (.fetchRange s.pc) s
  else readCell s.pc s.pc.toNat s fun hi => readCell s.pc (s.pc.toNat + 1) s fun lo => k (wordOfBytes hi lo)

/-- Decode and execute, with `pc` advanced past the word `w`; a failure is F_DECODE (R80, R87, R201 row 1). -/
def decodeAndExecute (w : Word) (s : State) : Result :=
  match decode w with
  | .ok i => exec i s
  | .error _ => raiseHere (.decode w) s

/-- The scheduler goes back to CHECK, unless the cycle raised a fault (R230). -/
def State.afterCycle (s : State) : State := if s.phase = .faulted then s else s.setPhase .check

/-- A continuation of a step that did answer a next state. -/
def onNext (f : State → State) : Result → Result
  | .next s => .next (f s)
  | .fault r => .fault r
  | .refused r => .refused r

/-- EXECUTE: one instruction cycle (R80, R230). -/
def executePhase (s : State) : Result :=
  fetch s fun w => onNext State.afterCycle (decodeAndExecute w s.advance)

/-! ## The service loop -/

/-- A timer counts down, saturating at 0 (R215). -/
def countDown (t : Byte) : Byte := if t = 0 then 0 else t - 1

/-- Both timers decrement in the same tick (R215). -/
def State.decrementTimers (s : State) : State := (s.setDt (countDown s.dt)).setSt (countDown s.st)

/-- The gate a sound timer asks for (R216). -/
def gateFor (st : Byte) : SoundGate := if st = 0 then .paused else .resumed

/-- The call that commands a sound timer's gate (R216). -/
def gateCall (st : Byte) : CapCall := if st = 0 then .soundPause else .soundResume

/-- The gate has been commanded. -/
def State.setGate (g : SoundGate) (s : State) : State := { s with soundGate := g }

/-- `TimerTick()`, with `SoundGate()` at its end: the test uses the decremented value (R215, R216; decision D21). -/
def timerTick (a : Answers) (s : State) (k : State → Result) : Result :=
  request none (gateCall s.decrementTimers.st) a.sound s.decrementTimers fun _ s =>
    k (s.setGate (gateFor s.st))

/-- The timeout of the `update` request (R225). -/
def serviceTimeout (c : Config) : Timeout := if c.freq = 0 then .poll c.pollInterval else .remaining

/-- The loop is left after one iteration if unthrottled, else when the budget has elapsed (R230, R231). -/
def State.afterService (a : Answers) (s : State) : State :=
  if s.config.freq = 0 ∨ a.budgetElapsed then s.setPhase .execute else s

/-- One iteration of SERVICE with the answers `a`: draw, update, tick if due (R230; decision D20). -/
def serviceIteration (a : Answers) (s : State) : Result :=
  request none .drawScreen a.drawScreen s fun _ s =>
  request none (.update (serviceTimeout s.config)) a.update s fun _ s =>
  if a.tickDue then timerTick a s fun s => .next (s.afterService a) else .next (s.afterService a)

/-- SERVICE, one iteration (R230). -/
def servicePhase (s : State) : Result := serviceIteration s.answers s

/-! ## The other phases -/

/-- INIT, once the state is reset and loaded: `Cap.init()` (R230, R250 step 6). -/
def initPhase (s : State) : Result :=
  request none .init s.answers.init s fun _ s => .next (s.setPhase .check)

/-- CHECK: close if the capability says so, else service (R230). -/
def checkPhase (s : State) : Result :=
  request none .shouldClose s.answers.shouldClose s fun close s =>
    .next (s.setPhase (if close then .final else .service))

/-- FINAL: `Cap.finalize()`, then the run has ended well (R230, R233). -/
def finalPhase (s : State) : Result :=
  request none .finalize s.answers.finalize s fun _ s => .next (s.setPhase .halted)

/-- What the phase does. HALTED and FAULTED are terminal: no transition leaves them (R230). -/
def runPhase (s : State) : Result :=
  match s.phase with
  | .init => initPhase s
  | .check => checkPhase s
  | .service => servicePhase s
  | .execute => executePhase s
  | .final => finalPhase s
  | .halted => .refused .runHalted
  | .faulted => .fault (.runFaulted s.faultRecord)

/-- One step: the phase of this state, with its own requests and its own answers (log 9, log 10). -/
def schedulerStep (s : State) : Result := onNext State.nextAnswers (runPhase s.clearCalls)

/-! ## Placing an instruction -/

/-- Where the next instruction is fetched: `pc`, or `PROG_BASE` if no fetch is possible at `pc` (R59). -/
def State.fetchAddr (s : State) : Word :=
  if memSize ≤ s.pc.toNat + 1 then BitVec.ofNat 16 progBase else s.pc

/-- The word `w` placed where the next instruction is fetched, and the scheduler at that fetch (log 11). -/
def State.placeWord (w : Word) (s : State) : State :=
  ((s.setCells s.fetchAddr.toNat [highByte w, lowByte w]).setPc s.fetchAddr).setPhase .execute

end Sys2Proof.Machine
end

