-- ==== Sys2Proof/Machine/Step.lean ====
section
/-!
DEFINITION. The step of the core, and the placing of one instruction for it (spec 60_exceptions.md R230, 30_encoding.md
R80).
-/

namespace Sys2Proof.Machine

/-- One step of the core: one action of the scheduler (R230; log 4). -/
def step (s : State) : Host.Outcome State Fault Refusal := schedulerStep s

/-- `s` with the instruction word `w`, its bits numbered as spec/opcode_table.json numbers them, placed so that the next
step fetches and runs it. -/
def State.withFetchWord (s : State) (nbits w : Nat) : State := s.placeWord (tableWord nbits w)

end Sys2Proof.Machine
end

