-- ==== Sys2Proof/Safety.lean ====
section
/-!
DEFINITION. The terms in which claims about runs and instructions are made: the invariant of the state, runs and their
ends (spec 60_exceptions.md R233), the fairness laws (R214, R231), and what each instruction reads and writes
(10_state.md R20 to R32).
-/

namespace Sys2Proof.Machine

/-! ## The invariant -/

/-- What holds of the state at reset and after every step. -/
structure Inv (s : State) : Prop where
  /-- the parameters are legal (R252) -/
  configLegal : s.config.Legal
  /-- memory keeps its canonical form and lies in the address space (R50) -/
  memWf : s.mem.wf s.config
  /-- under `GLYPH_WRITE_POLICY` = `Fault` no cell of the glyph region is ever stored to (R62) -/
  glyphsKept : s.config.glyphWritePolicy = .fault → ∀ e ∈ s.mem, glyphBytes ≤ e.1
  /-- the stack pointer is 0 to 16 (R26) -/
  spRange : s.sp.toNat ≤ stackDepth
  /-- a stack slot holds an address that CALL pushed, or its reset value (R24, R27) -/
  stackRange : ∀ j : Fin stackDepth, s.stack[j].toNat ≤ 0x1000
  /-- the program counter never wraps (R24) -/
  pcRange : s.pc.toNat ≤ 0x10FE
  /-- the pixel buffer has `W` × `H` pixels (R30) -/
  pixRange : s.pix.bits < 2 ^ (s.config.width * s.config.height)
  /-- there is a fault record in FAULTED and nowhere else (R200) -/
  recordIff : s.phase = .faulted ↔ s.faultRecord.isSome = true
  /-- under `RESET_POLICY` = `Zero` everything holds a value (R22) -/
  zeroFilled : s.config.resetPolicy = .zero → s.blank = []
  /-- a slot below the stack pointer holds the value CALL wrote (R26, R27) -/
  stackFilled : ∀ j : Fin stackDepth, j.val < s.sp.toNat → Item.stack j ∉ s.blank

/-! ## Runs -/

/-- The states a run can be in, from a boot with legal parameters and a loadable image (R250), whatever `width()` and
`height()` answer and whatever the answers to come are (R225, R226). -/
inductive Reachable : State → Prop where
  | boot (c : Config) (image : List Byte) (width height : Response Unit) (answers : List Answers) (s : State)
      (h : Machine.boot c image width height answers = .next s) : Reachable s
  | step (s t : State) (h : Reachable s) (hs : Machine.step s = .next t) : Reachable t

/-- A run that never stops. -/
abbrev EndlessRun (r : Nat → State) : Prop := ∀ n, step (r n) = .next (r (n + 1))

/-- The fairness law of R214: of infinitely many service iterations infinitely many take a tick. -/
abbrev TickFair (r : Nat → State) : Prop :=
  (∀ n, ∃ m ≥ n, (r m).phase = .service) → ∀ n, ∃ m ≥ n, (r m).phase = .service ∧ (r m).answers.tickDue = true

/-- The fairness law of R231: the service loop is left after finitely many iterations. -/
abbrev BudgetFair (r : Nat → State) : Prop :=
  ∀ n, (r n).phase = .service → ∃ m ≥ n, (r m).phase ≠ .service

/-- A run has ended well (R233). FAULTED is never a successful end (R204, R233). -/
abbrev EndedWell (s : State) : Prop := s.phase = .halted

/-- A run has ended badly (R233). -/
abbrev EndedBadly (s : State) : Prop := s.phase = .faulted

/-! ## Sprites -/

/-- How many 1 bits of a sprite land on pixel (px, py) when it is drawn from (x0, y0): row r, column c (bit 7 - c) lands
on ((x0 + c) mod W, (y0 + r) mod H) (R171). More than one can only where the buffer is narrower than 8 or lower than the
sprite. -/
def spriteHits (c : Config) (x0 y0 : Nat) (rows : List Byte) (px py : Nat) : Nat :=
  ((List.range rows.length).map fun r => (List.range 8).countP fun col =>
    rows[r]!.getLsbD (7 - col) && (x0 + col) % c.width == px && (y0 + r) % c.height == py).sum

/-! ## The scheduler -/

/-- A step that made one request and nothing else: the request on the output port, the next answers presented. -/
def State.afterRequest (call : CapCall) (s : State) : State :=
  { s with calls := [call], inputs := s.inputs.tail, draws := s.draws + 1 }

/-- The edges of the scheduler's state machine (R230): SERVICE repeats, and any phase that calls or executes may fault. -/
def Phase.next : Phase → List Phase
  | .init => [.check, .faulted]
  | .check => [.service, .final, .faulted]
  | .service => [.service, .execute, .faulted]
  | .execute => [.check, .faulted]
  | .final => [.halted, .faulted]
  | .halted => []
  | .faulted => []

/-! ## What an instruction reads and writes -/

end Sys2Proof.Machine

namespace Sys2Proof

open Sys2Proof.Machine

/-- The V register an instruction names as its destination (R20, R21). -/
def Instr.namedDest : Instr → List Reg
  | .sys _ | .cls | .ret | .jp _ | .call _ | .seImm _ _ | .sneImm _ _ | .seReg _ _ | .sneReg _ _ => []
  | .ldI _ | .jpOff _ | .drw _ _ _ | .skp _ | .sknp _ | .ldDtVx _ | .ldStVx _ | .addI _ | .ldF _ | .ldB _ => []
  | .storeRegs _ => []
  | .ldImm x _ | .addImm x _ | .ldReg x _ | .or x _ | .and x _ | .xor x _ | .rnd x _ | .ldVxDt x | .ldVxK x => [x]
  | .addReg x _ | .subReg x _ | .shr x _ | .subn x _ | .shl x _ => [x]
  | .loadRegs x => regsUpTo x

/-- The instructions that write VF as a side effect, whatever their destination (R21). -/
def Instr.writesFlag : Instr → Bool
  | .addReg _ _ | .subReg _ _ | .shr _ _ | .subn _ _ | .shl _ _ | .drw _ _ _ => true
  | .sys _ | .cls | .ret | .jp _ | .call _ | .seImm _ _ | .sneImm _ _ | .seReg _ _ | .sneReg _ _ => false
  | .ldI _ | .jpOff _ | .skp _ | .sknp _ | .ldDtVx _ | .ldStVx _ | .addI _ | .ldF _ | .ldB _ | .storeRegs _ => false
  | .ldImm _ _ | .addImm _ _ | .ldReg _ _ | .or _ _ | .and _ _ | .xor _ _ | .rnd _ _ | .ldVxDt _ | .ldVxK _ => false
  | .loadRegs _ => false

/-- The cells an instruction stores to (R50): from `I` on, as its meaning addresses them. -/
def Instr.storedCells (s : State) : Instr → List Nat
  | .ldB _ => cellsFrom s.index 3
  | .storeRegs x => cellsFrom s.index (x.val + 1)
  | .sys _ | .cls | .ret | .jp _ | .call _ | .seImm _ _ | .sneImm _ _ | .seReg _ _ | .sneReg _ _ => []
  | .ldI _ | .jpOff _ | .drw _ _ _ | .skp _ | .sknp _ | .ldDtVx _ | .ldStVx _ | .addI _ | .ldF _ => []
  | .ldImm _ _ | .addImm _ _ | .ldReg _ _ | .or _ _ | .and _ _ | .xor _ _ | .rnd _ _ | .ldVxDt _ | .ldVxK _ => []
  | .addReg _ _ | .subReg _ _ | .shr _ _ | .subn _ _ | .shl _ _ | .loadRegs _ => []

/-- The registers an instruction reads before any other check of its own, in the order in which its pseudocode names
them: where one of them holds no value yet, F_UNWRITTEN names the first (R22, R201 row 9; the order is log 15). RET's slot and the registers LD [I], Vx stores are
read after other checks and are not listed. -/
def Instr.firstReads (c : Config) : Instr → List Item
  | .sys _ | .cls | .ret | .jp _ | .call _ | .ldImm _ _ | .ldI _ | .rnd _ _ | .ldVxDt _ | .ldVxK _ => []
  | .seImm x _ | .sneImm x _ | .addImm x _ | .shr x _ | .shl x _ => [.v x]
  | .seReg x y | .sneReg x y | .or x y | .and x y | .xor x y | .addReg x y | .subReg x y => [.v x, .v y]
  | .subn x y => [.v y, .v x]
  | .ldReg _ y => [.v y]
  | .jpOff _ => [.v c.jumpOffsetReg]
  | .drw x y n => if n.val = 0 then [.v x, .v y] else [.v x, .v y, .index]
  | .skp x | .sknp x | .ldDtVx x | .ldStVx x | .ldF x => [.v x]
  | .addI x => [.index, .v x]
  | .ldB x => [.v x, .index]
  | .storeRegs _ | .loadRegs _ => [.index]

/-- The V registers an instruction names as a source, the block store's and JP V0's included (R21, R114, R155). The
unused `y` of SHR and SHL is none (R90). -/
def Instr.sourceRegs (c : Config) : Instr → List Reg
  | .sys _ | .cls | .ret | .jp _ | .call _ | .ldImm _ _ | .ldI _ | .rnd _ _ | .ldVxDt _ | .ldVxK _ | .loadRegs _ => []
  | .seImm x _ | .sneImm x _ | .addImm x _ | .shr x _ | .shl x _ => [x]
  | .seReg x y | .sneReg x y | .or x y | .and x y | .xor x y | .addReg x y | .subReg x y | .subn x y => [x, y]
  | .ldReg _ y => [y]
  | .jpOff _ => [c.jumpOffsetReg]
  | .drw x y _ => [x, y]
  | .skp x | .sknp x | .ldDtVx x | .ldStVx x | .ldF x | .addI x | .ldB x => [x]
  | .storeRegs x => regsUpTo x

/-- An instruction's first reads all hold a value: always so under `RESET_POLICY` = `Zero` (R22). -/
abbrev Instr.Readable (i : Instr) (s : State) : Prop := ∀ it ∈ i.firstReads s.config, it ∉ s.blank

end Sys2Proof
end

