-- ==== Sys2Proof/Certificates/Slice0/Obligations.lean ====
section
/-!
DEFINITION. The statements for the provers. Each docstring names the sentence of spec/ it formalises. `s` is the state
an instruction starts in, with `pc` already past its word (30_encoding.md R80), so its own address is `s.pc - 2`.
-/

open Sys2Proof Sys2Proof.Machine

/-! ## Encoding and decoding -/

/-- 30_encoding.md, R82 to R86: the decoder gives back every well-formed instruction, with every operand, from its two
cells, and the bytes that follow. The byte order is decision D1 (log 18), the selectors marked (g) in R85 are the spec's
general knowledge (log 19). -/
def Obligations.DecodeInvertsEncode : Prop :=
  ∀ (i : Instr) (rest : List Byte), i.wellFormed = true → decodeBytes (encodeBytes i ++ rest) = .ok (i, rest)

/-- 30_encoding.md, R83 to R86, R89: a word that decodes is the encoding of what it decodes to, but for the ignored low
nibble of `5xy-` (decision D7, log 20), and every decoded instruction is well formed. The selectors marked (g) in R85 are
the spec's general knowledge (log 19). -/
def Obligations.EncodeInvertsDecode : Prop :=
  ∀ (w : Word) (i : Instr), decode w = .ok i →
    i.wellFormed = true ∧ encode i = if w.toNat / 0x1000 = 0x5 then w &&& 0xFFF0#16 else w

/-- 30_encoding.md, R87: "Exactly these words are decode failures", the four families in the words' own numbers.
The selectors marked (g) in R85 are the spec's general knowledge (log 19), and that no word of top nibble 5 fails is
decision D7 (log 20). -/
def Obligations.DecodeFailsExactlyOnIllegalWords : Prop :=
  ∀ w : Word, (∃ e, decode w = .error e) ↔
    (w.toNat / 0x1000 = 0x8 ∧ w.toNat % 0x10 ∈ [0x8, 0x9, 0xA, 0xB, 0xC, 0xD, 0xF]) ∨
    (w.toNat / 0x1000 = 0x9 ∧ w.toNat % 0x10 ≠ 0) ∨
    (w.toNat / 0x1000 = 0xE ∧ w.toNat % 0x100 ∉ [0x9E, 0xA1]) ∨
    (w.toNat / 0x1000 = 0xF ∧ w.toNat % 0x100 ∉ [0x07, 0x0A, 0x15, 0x18, 0x1E, 0x29, 0x33, 0x55, 0x65])

/-- 95_test_vectors.md, L1.6, L1.7 and L2.1: words of every family decode as the table says, and the source's negative
cases fail. The selectors marked (g) in R85 are the spec's general knowledge (PRESUMED, log 19), and that 0x512F decodes
at all, its low nibble ignored, is decision D7 (DESIGN CHOICE, log 20). -/
def Obligations.SampleWordsDecode : Prop :=
  decode 0x00E0 = .ok .cls ∧ decode 0x00E1 = .ok (.sys 0x0E1) ∧ decode 0x00EE = .ok .ret ∧
  decode 0x2300 = .ok (.call 0x300) ∧ decode 0x3A42 = .ok (.seImm 0xA 0x42) ∧ decode 0x512F = .ok (.seReg 1 2) ∧
  decode 0x6105 = .ok (.ldImm 1 0x05) ∧ decode 0x8126 = .ok (.shr 1 2) ∧ decode 0xA210 = .ok (.ldI 0x210) ∧
  decode 0xD125 = .ok (.drw 1 2 5) ∧ decode 0xE1A1 = .ok (.sknp 1) ∧ decode 0xF165 = .ok (.loadRegs 1) ∧
  decode 0x8008 = .error (.aluSelector 0x8) ∧ decode 0x8009 = .error (.aluSelector 0x9) ∧
  decode 0x90F1 = .error (.sneSelector 0x1) ∧ decode 0xE000 = .error (.keySelector 0x00) ∧
  decode 0xF099 = .error (.miscSelector 0x99)

/-! ## The instruction cycle -/

/-- 30_encoding.md, R80, and 20_memory.md, R53, R59, R60: in EXECUTE, at an even or an odd `pc`, a step fetches the two
cells at `pc`, the first as the high byte (the byte order is decision D1), moves `pc` on by 2, runs the decoded
instruction, and goes on to CHECK unless it faulted. The step also empties the model's request port before and takes
the next answers after (log 9, log 10). -/
def Obligations.StepRunsDecodedInstruction : Prop :=
  ∀ (s : State) (hi lo : Byte) (i : Instr),
    s.phase = .execute → s.pc.toNat + 1 ≤ 0xFFF →
    s.cell s.pc.toNat = some hi → s.cell (s.pc.toNat + 1) = some lo → decode (hi ++ lo) = .ok i →
    step s = onNext (fun t => (if t.phase = .faulted then t else t.setPhase .check).nextAnswers)
      (exec i ({ s with calls := [] }.setPc (s.pc + 2)))

/-- 20_memory.md, R59 (decision D4), and 60_exceptions.md, R201 rows 1, 2 and 9: what a cycle faults with before it
executes anything. A fetch whose second cell would lie outside memory is F_FETCH_RANGE; under `RESET_POLICY` =
`Unwritten` a fetched cell that holds no value is F_UNWRITTEN (decision D2), with the cell at `pc` if neither holds one,
a read order that is the model's choice (log 15); an undecodable word is F_DECODE with the word and its address. `pc` has moved on in the last case only (R204), and nothing else is written. -/
def Obligations.FetchAndDecodeFaults : Prop :=
  ∀ s : State, s.phase = .execute →
    (0xFFF < s.pc.toNat + 1 → step s = .next { s with
      phase := .faulted, faultRecord := some ⟨.fetchRange s.pc, some s.pc⟩,
      calls := [], inputs := s.inputs.tail, draws := s.draws + 1 }) ∧
    (∀ a, s.pc.toNat + 1 ≤ 0xFFF → s.cell a = none →
      (a = s.pc.toNat ∨ (a = s.pc.toNat + 1 ∧ s.cell s.pc.toNat ≠ none)) → step s = .next { s with
      phase := .faulted, faultRecord := some ⟨.unwritten (.cell a), some s.pc⟩,
      calls := [], inputs := s.inputs.tail, draws := s.draws + 1 }) ∧
    ∀ (hi lo : Byte) (e : DecodeReject), s.pc.toNat + 1 ≤ 0xFFF →
      s.cell s.pc.toNat = some hi → s.cell (s.pc.toNat + 1) = some lo → decode (hi ++ lo) = .error e →
      step s = .next { s with
        pc := s.pc + 2, phase := .faulted, faultRecord := some ⟨.decode (hi ++ lo), some s.pc⟩,
        calls := [], inputs := s.inputs.tail, draws := s.draws + 1 }

/-- 60_exceptions.md, R200: a fault, in whatever step it is raised, leaves a record with the fault, its info and the
address of the instruction being executed or fetched, moves the scheduler to FAULTED, and no step follows it. -/
def Obligations.FaultIsRecordedAndFatal : Prop :=
  ∀ s t : State, step s = .next t → s.phase ≠ .faulted → t.phase = .faulted →
    (∃ k at?, t.faultRecord = some ⟨k, at?⟩ ∧ (s.phase = .execute → at? = some s.pc)) ∧
    ∀ u, step t ≠ .next u

/-- 60_exceptions.md, R204 (decision D23): an instruction that faults has written nothing; only a capability call it
made shows on the request port. -/
def Obligations.FaultsArePrecise : Prop :=
  ∀ (i : Instr) (s t : State), exec i s = .next t → s.phase ≠ .faulted → t.phase = .faulted →
    ∃ k, t = { s with phase := .faulted, faultRecord := some ⟨k, some (s.pc - 2)⟩, calls := t.calls } ∧
      (t.calls = s.calls ∨ ∃ call, k = .capability call ∧ t.calls = s.calls ++ [call])

/-- 60_exceptions.md, R201: the code and the name of each fault (the numbering is decision D22). -/
def Obligations.FaultCodesAndNames : Prop :=
  (∀ w, (FaultKind.decode w).code = 1 ∧ (FaultKind.decode w).name = "F_DECODE") ∧
  (∀ p, (FaultKind.fetchRange p).code = 2 ∧ (FaultKind.fetchRange p).name = "F_FETCH_RANGE") ∧
  (∀ a, (FaultKind.memRange a).code = 3 ∧ (FaultKind.memRange a).name = "F_MEM_RANGE") ∧
  (∀ b, (FaultKind.stackOverflow b).code = 4 ∧ (FaultKind.stackOverflow b).name = "F_STACK_OVERFLOW") ∧
  (∀ b, (FaultKind.stackUnderflow b).code = 5 ∧ (FaultKind.stackUnderflow b).name = "F_STACK_UNDERFLOW") ∧
  (∀ a, (FaultKind.glyphWrite a).code = 6 ∧ (FaultKind.glyphWrite a).name = "F_GLYPH_WRITE") ∧
  (∀ b, (FaultKind.keyRange b).code = 7 ∧ (FaultKind.keyRange b).name = "F_KEY_RANGE") ∧
  (∀ c, (FaultKind.capability c).code = 8 ∧ (FaultKind.capability c).name = "F_CAPABILITY") ∧
  (∀ t, (FaultKind.unwritten t).code = 9 ∧ (FaultKind.unwritten t).name = "F_UNWRITTEN")

/-- 10_state.md, R22, and 60_exceptions.md, R201 row 9 (decision D2): an instruction that reads a register which holds
no value yet raises F_UNWRITTEN and changes nothing else. Which of several such registers is named, the first in the
order of `Instr.firstReads`, is the model's choice (log 15): R203 does not place F_UNWRITTEN among the checks. -/
def Obligations.UnwrittenOperandFaults : Prop :=
  ∀ (i : Instr) (s : State) (it : Item),
    (i.firstReads s.config).find? (fun it => decide (it ∈ s.blank)) = some it →
    exec i s = .next { s with phase := .faulted, faultRecord := some ⟨.unwritten it, some (s.pc - 2)⟩ }

/-- 10_state.md, R22, and 60_exceptions.md, R201 row 9 (decisions D2, D23): LD Vx, [I] and DRW, at addresses inside
memory, raise F_UNWRITTEN with the lowest cell that holds no value yet, and change nothing else. That the cells are read
after every other check, the lowest first, is the model's choice (log 15). -/
def Obligations.UnwrittenCellFaults : Prop :=
  ∀ (i : Instr) (s : State) (len k : Nat), i.Readable s →
    ((∃ x : Reg, i = .loadRegs x ∧ len = x.val + 1) ∨ (∃ x y, ∃ n : Count, i = .drw x y n ∧ len = n.val)) →
    s.index.toNat + len ≤ 0x1000 → k < len →
    s.cell (s.index.toNat + k) = none → (∀ j < k, s.cell (s.index.toNat + j) ≠ none) →
    exec i s = .next { s with
      phase := .faulted, faultRecord := some ⟨.unwritten (.cell (s.index.toNat + k)), some (s.pc - 2)⟩ }

/-- 60_exceptions.md, R201 row 9 ("only under `RESET_POLICY` = `Unwritten`"; decision D2), over the states the invariant
admits: with the default policy no step raises F_UNWRITTEN. -/
def Obligations.ZeroPolicyNeverUnwritten : Prop :=
  ∀ (s t : State) (it : Item) (at? : Option Word), Inv s → s.config.resetPolicy = .zero → step s = .next t →
    t.faultRecord ≠ some ⟨.unwritten it, at?⟩

/-- 60_exceptions.md, R207 (one mode, no privileged instruction), and R226 and R237: no instruction is ever refused, and
the only one that can have no next state is LD Vx, K, when its wait is never answered. -/
def Obligations.EveryInstructionRuns : Prop :=
  ∀ (i : Instr) (s : State),
    (∃ t, exec i s = .next t) ∨
    (exec i s = .fault (.waitsForever .waitForKey) ∧ s.answers.waitForKey = .noAnswer ∧ ∃ x, i = .ldVxK x)

/-! ## Control flow -/

/-- 41_control_flow.md, R110: every top-nibble-0 word but 0x00E0 and 0x00EE is SYS, which does nothing. -/
def Obligations.SysIsNoOperation : Prop :=
  (∀ w : Word, w.toNat < 0x1000 → w ≠ 0x00E0 → w ≠ 0x00EE → decode w = .ok (.sys (w.setWidth 12))) ∧
  ∀ (nnn : Addr12) (s : State), exec (.sys nnn) s = .next s

/-- 41_control_flow.md, R113 and R114 (the offset register is decision D14): a jump overwrites `pc`, JP V0 with the
exact sum, and nothing else changes. -/
def Obligations.JumpsOverwritePc : Prop :=
  (∀ (nnn : Addr12) (s : State), exec (.jp nnn) s = .next { s with pc := nnn.setWidth 16 }) ∧
  ∀ (nnn : Addr12) (s : State), Item.v s.config.jumpOffsetReg ∉ s.blank →
    ∃ t, exec (.jpOff nnn) s = .next t ∧ t = { s with pc := t.pc } ∧
      t.pc.toNat = nnn.toNat + s.v[s.config.jumpOffsetReg].toNat

/-- 41_control_flow.md, R112 (decision D5): CALL pushes the advanced `pc` and jumps; with 16 addresses on the stack it
raises F_STACK_OVERFLOW. -/
def Obligations.CallPushesAndJumps : Prop :=
  (∀ (nnn : Addr12) (s : State) (h : s.sp.toNat < 16),
    exec (.call nnn) s = .next { s with
      stack := s.stack.set s.sp.toNat s.pc h, sp := s.sp + 1, pc := nnn.setWidth 16,
      blank := s.blank.filter (· ≠ .stack ⟨s.sp.toNat, h⟩) }) ∧
  ∀ (nnn : Addr12) (s : State), 16 ≤ s.sp.toNat →
    exec (.call nnn) s = .next { s with
      phase := .faulted, faultRecord := some ⟨.stackOverflow s.sp, some (s.pc - 2)⟩ }

/-- 41_control_flow.md, R111 (decision D5; D29 for the slot, which keeps its value): RET pops into `pc`; with an empty
stack it raises F_STACK_UNDERFLOW, and above 16, which no run reaches, F_STACK_OVERFLOW. An unwritten slot is F_UNWRITTEN,
after the checks of `SP` (decision D2, log 15). -/
def Obligations.ReturnPops : Prop :=
  (∀ (s : State) (j : Fin 16), s.sp.toNat = j.val + 1 → Item.stack j ∉ s.blank →
    exec .ret s = .next { s with sp := s.sp - 1, pc := s.stack[j] }) ∧
  (∀ (s : State) (j : Fin 16), s.sp.toNat = j.val + 1 → Item.stack j ∈ s.blank →
    exec .ret s = .next { s with
      phase := .faulted, faultRecord := some ⟨.unwritten (.stack j), some (s.pc - 2)⟩ }) ∧
  (∀ s : State, s.sp.toNat = 0 →
    exec .ret s = .next { s with
      phase := .faulted, faultRecord := some ⟨.stackUnderflow s.sp, some (s.pc - 2)⟩ }) ∧
  ∀ s : State, 16 < s.sp.toNat →
    exec .ret s = .next { s with
      phase := .faulted, faultRecord := some ⟨.stackOverflow s.sp, some (s.pc - 2)⟩ }

/-- 41_control_flow.md, R112: "`CALL 0x300` followed immediately by `RET` restores the program counter to its value
immediately after the call instruction", for every target, from every stack with a free slot, and wherever the RET word
stands. -/
def Obligations.CallThenReturnRestoresPc : Prop :=
  ∀ (nnn : Addr12) (s : State), s.sp.toNat < 16 →
    ∃ t u, exec (.call nnn) s = .next t ∧ exec .ret t.advance = .next u ∧
      u = { s with stack := t.stack, blank := t.blank } ∧
      ∀ j : Fin 16, j.val ≠ s.sp.toNat → t.stack[j] = s.stack[j]

/-! ## Skips -/

/-- 42_skips.md, R120, R121, R123 and R124, and R122's comparison: a skip adds 2 to `pc` when its condition holds and
changes nothing else. -/
def Obligations.RegisterSkips : Prop :=
  ∀ (s : State) (x y : Reg) (kk : Byte), Item.v x ∉ s.blank →
    exec (.seImm x kk) s = .next (if s.v[x] = kk then { s with pc := s.pc + 2 } else s) ∧
    exec (.sneImm x kk) s = .next (if s.v[x] ≠ kk then { s with pc := s.pc + 2 } else s) ∧
    (Item.v y ∉ s.blank →
      exec (.seReg x y) s = .next (if s.v[x] = s.v[y] then { s with pc := s.pc + 2 } else s) ∧
      exec (.sneReg x y) s = .next (if s.v[x] ≠ s.v[y] then { s with pc := s.pc + 2 } else s))

/-! ## Register loads and the ALU -/

/-- 43_register_alu.md, R131 and R133: a load writes `V[x]`, which then holds a value, and nothing else. -/
def Obligations.RegisterLoads : Prop :=
  ∀ (s : State) (x y : Reg) (kk : Byte),
    exec (.ldImm x kk) s = .next { s with v := s.v.set x kk, blank := s.blank.filter (· ≠ .v x) } ∧
    (Item.v y ∉ s.blank →
      exec (.ldReg x y) s = .next { s with v := s.v.set x s.v[y], blank := s.blank.filter (· ≠ .v x) })

/-- 43_register_alu.md, R132 (wrap and the untouched VF are decision D12). -/
def Obligations.AddImmediateWraps : Prop :=
  ∀ (s : State) (x : Reg) (kk : Byte), Item.v x ∉ s.blank →
    ∃ t, exec (.addImm x kk) s = .next t ∧
      t = { s with v := s.v.set x t.v[x], blank := s.blank.filter (· ≠ .v x) } ∧
      t.v[x].toNat = (s.v[x].toNat + kk.toNat) % 256

/-- 43_register_alu.md, R134 to R136: bit by bit, and VF is untouched unless it is the destination (decision D11). -/
def Obligations.BitwiseOperations : Prop :=
  ∀ (s : State) (x y : Reg), Item.v x ∉ s.blank → Item.v y ∉ s.blank →
    (∃ t, exec (.or x y) s = .next t ∧
      t = { s with v := s.v.set x t.v[x], blank := s.blank.filter (· ≠ .v x) } ∧
      ∀ k < 8, t.v[x].getLsbD k = (s.v[x].getLsbD k || s.v[y].getLsbD k)) ∧
    (∃ t, exec (.and x y) s = .next t ∧
      t = { s with v := s.v.set x t.v[x], blank := s.blank.filter (· ≠ .v x) } ∧
      ∀ k < 8, t.v[x].getLsbD k = (s.v[x].getLsbD k && s.v[y].getLsbD k)) ∧
    (∃ t, exec (.xor x y) s = .next t ∧
      t = { s with v := s.v.set x t.v[x], blank := s.blank.filter (· ≠ .v x) } ∧
      ∀ k < 8, t.v[x].getLsbD k = (s.v[x].getLsbD k ^^ s.v[y].getLsbD k))

/-- 43_register_alu.md, R137: the sum modulo 256 in `V[x]` and the carry in VF; with `x` = 0xF the later of the two writes
stays (`ARITH_FLAG_LAST`, decision D8). -/
def Obligations.AddSetsCarry : Prop :=
  ∀ (s : State) (x y : Reg), Item.v x ∉ s.blank → Item.v y ∉ s.blank →
    ∃ t, exec (.addReg x y) s = .next t ∧ t = { s with v := t.v, blank := t.blank } ∧
      (∀ it, it ∈ t.blank ↔ it ∈ s.blank ∧ it ≠ .v x ∧ it ≠ .v 15) ∧
      (∀ r : Reg, r ≠ x → r ≠ 15 → t.v[r] = s.v[r]) ∧
      (x ≠ 15 ∨ s.config.arithFlagLast = true →
        t.v[15].toNat = if 255 < s.v[x].toNat + s.v[y].toNat then 1 else 0) ∧
      (x ≠ 15 ∨ s.config.arithFlagLast = false → t.v[x].toNat = (s.v[x].toNat + s.v[y].toNat) % 256)

/-- 43_register_alu.md, R138 and R140: SUB takes `V[y]` from `V[x]`, SUBN `V[x]` from `V[y]` (decision D10), modulo 256;
VF is 1 iff the minuend is strictly greater (conflict C1); with `x` = 0xF the later write stays (decision D8). -/
def Obligations.SubtractsSetNoBorrow : Prop :=
  ∀ (s : State) (x y : Reg), Item.v x ∉ s.blank → Item.v y ∉ s.blank →
    ∀ i a b, (i = .subReg x y ∧ a = s.v[x] ∧ b = s.v[y]) ∨ (i = .subn x y ∧ a = s.v[y] ∧ b = s.v[x]) →
    ∃ t, exec i s = .next t ∧ t = { s with v := t.v, blank := t.blank } ∧
      (∀ it, it ∈ t.blank ↔ it ∈ s.blank ∧ it ≠ .v x ∧ it ≠ .v 15) ∧
      (∀ r : Reg, r ≠ x → r ≠ 15 → t.v[r] = s.v[r]) ∧
      (x ≠ 15 ∨ s.config.arithFlagLast = true → t.v[15].toNat = if b.toNat < a.toNat then 1 else 0) ∧
      (x ≠ 15 ∨ s.config.arithFlagLast = false → (t.v[x].toNat : Int) = ((a.toNat : Int) - b.toNat) % 256)

/-- 43_register_alu.md, R139: the dropped bit in VF, half the value in `V[x]`; with `x` = 0xF, 0 if the flag is written
first, else the flag (`SHIFT_FLAG_FIRST`, decision D9). -/
def Obligations.ShiftRightSetsDroppedBit : Prop :=
  ∀ (s : State) (x y : Reg), Item.v x ∉ s.blank →
    ∃ t, exec (.shr x y) s = .next t ∧ t = { s with v := t.v, blank := t.blank } ∧
      (∀ it, it ∈ t.blank ↔ it ∈ s.blank ∧ it ≠ .v x ∧ it ≠ .v 15) ∧
      (∀ r : Reg, r ≠ x → r ≠ 15 → t.v[r] = s.v[r]) ∧
      (x ≠ 15 → t.v[x].toNat = s.v[x].toNat / 2 ∧ t.v[15].toNat = s.v[x].toNat % 2) ∧
      (x = 15 → t.v[15].toNat = if s.config.shiftFlagFirst then 0 else s.v[15].toNat % 2)

/-- 43_register_alu.md, R141: the test of bit 7 in VF, twice the value modulo 256 in `V[x]`; with `x` = 0xF, 0 or 2 if the
flag is written first, else the flag (`SHIFT_FLAG_FIRST`, decision D9). -/
def Obligations.ShiftLeftSetsHighBitTest : Prop :=
  ∀ (s : State) (x y : Reg), Item.v x ∉ s.blank →
    ∃ t, exec (.shl x y) s = .next t ∧ t = { s with v := t.v, blank := t.blank } ∧
      (∀ it, it ∈ t.blank ↔ it ∈ s.blank ∧ it ≠ .v x ∧ it ≠ .v 15) ∧
      (∀ r : Reg, r ≠ x → r ≠ 15 → t.v[r] = s.v[r]) ∧
      (x ≠ 15 → t.v[x].toNat = 2 * s.v[x].toNat % 256 ∧ t.v[15].toNat = if 128 ≤ s.v[x].toNat then 1 else 0) ∧
      (x = 15 → t.v[15].toNat =
        (if 128 ≤ s.v[15].toNat then 1 else 0) * if s.config.shiftFlagFirst then 2 else 1)

/-- 30_encoding.md, R90: any `y` of SHR and SHL decodes and is carried, and none of them is used. -/
def Obligations.ShiftsIgnoreSecondOperand : Prop :=
  (∀ x y : Reg, decode (encode (.shr x y)) = .ok (.shr x y) ∧ decode (encode (.shl x y)) = .ok (.shl x y)) ∧
  ∀ (s : State) (x y y' : Reg),
    exec (.shr x y) s = exec (.shr x y') s ∧ exec (.shl x y) s = exec (.shl x y') s

/-- 43_register_alu.md, R142 (decision D15): the drawn byte masked by `kk`, and the draw may be any byte. -/
def Obligations.RandomIsMaskedDraw : Prop :=
  ∀ (s : State) (x : Reg) (kk : Byte),
    (∃ t, exec (.rnd x kk) s = .next t ∧
      t = { s with v := s.v.set x (s.answers.draw8 &&& kk), blank := s.blank.filter (· ≠ .v x) }) ∧
    ∀ b : Byte, ∃ answers t, exec (.rnd x kk) { s with inputs := [answers] } = .next t ∧ t.v[x] = b &&& kk

/-! ## Index register and memory block -/

/-- 44_index_memory.md, R150 to R152 (the wrap of ADD I is decision D13). -/
def Obligations.IndexInstructions : Prop :=
  ∀ (s : State) (x : Reg) (nnn : Addr12),
    (∃ t, exec (.ldI nnn) s = .next t ∧ t.index.toNat = nnn.toNat ∧
      t = { s with index := t.index, blank := s.blank.filter (· ≠ .index) }) ∧
    (Item.v x ∉ s.blank → ∃ t, exec (.ldF x) s = .next t ∧ t.index.toNat = 5 * (s.v[x].toNat % 16) ∧
      t = { s with index := t.index, blank := s.blank.filter (· ≠ .index) }) ∧
    (Item.v x ∉ s.blank → Item.index ∉ s.blank → ∃ t, exec (.addI x) s = .next t ∧
      t.index.toNat = (s.index.toNat + s.v[x].toNat) % 65536 ∧
      t = { s with index := t.index, blank := s.blank.filter (· ≠ .index) })

/-- 44_index_memory.md, R153 and R154 (decisions D6, D17, D23): the three decimal digits at `I`, `I + 1` and `I + 2`;
every other cell, and everything else, is as before. -/
def Obligations.BcdStoresDigits : Prop :=
  ∀ (s : State) (x : Reg), Item.v x ∉ s.blank → Item.index ∉ s.blank → s.index.toNat + 2 ≤ 0xFFF →
    (0x50 ≤ s.index.toNat ∨ s.config.glyphWritePolicy = .write) →
    ∃ t h d u, exec (.ldB x) s = .next t ∧ t = { s with mem := t.mem } ∧
      s.v[x].toNat = 100 * h + 10 * d + u ∧ h < 10 ∧ d < 10 ∧ u < 10 ∧
      t.cell s.index.toNat = some (BitVec.ofNat 8 h) ∧ t.cell (s.index.toNat + 1) = some (BitVec.ofNat 8 d) ∧
      t.cell (s.index.toNat + 2) = some (BitVec.ofNat 8 u) ∧
      ∀ a, a ∉ cellsFrom s.index 3 → t.cell a = s.cell a

/-- 44_index_memory.md, R153 and R155 (decisions D6, D17, D23): V0 to `V[x]` at `I` to `I + x`; every other cell, and
everything else, is as before. A register to be stored that holds no value raises F_UNWRITTEN for the lowest one
(decision D2), with nothing stored; the order of these reads is the model's choice (log 15). -/
def Obligations.BlockStoreCopiesRegisters : Prop :=
  ∀ (s : State) (x : Reg), Item.index ∉ s.blank → s.index.toNat + x.val ≤ 0xFFF →
    (0x50 ≤ s.index.toNat ∨ s.config.glyphWritePolicy = .write) →
    ((∀ r ≤ x, Item.v r ∉ s.blank) →
      ∃ t, exec (.storeRegs x) s = .next t ∧ t = { s with mem := t.mem } ∧
        (∀ r ≤ x, t.cell (s.index.toNat + r.val) = some s.v[r]) ∧
        ∀ a, a ∉ cellsFrom s.index (x.val + 1) → t.cell a = s.cell a) ∧
    ∀ r ≤ x, Item.v r ∈ s.blank → (∀ q < r, Item.v q ∉ s.blank) →
      exec (.storeRegs x) s = .next { s with
        phase := .faulted, faultRecord := some ⟨.unwritten (.v r), some (s.pc - 2)⟩ }

/-- 44_index_memory.md, R153 and R156 (decisions D17, D23): `V0` to `V[x]` from `I` to `I + x`; the other registers and
everything else are as before. -/
def Obligations.BlockLoadCopiesCells : Prop :=
  ∀ (s : State) (x : Reg) (bytes : Reg → Byte), Item.index ∉ s.blank → s.index.toNat + x.val ≤ 0xFFF →
    (∀ r ≤ x, s.cell (s.index.toNat + r.val) = some (bytes r)) →
    ∃ t, exec (.loadRegs x) s = .next t ∧ t = { s with v := t.v, blank := t.blank } ∧
      (∀ it, it ∈ t.blank ↔ it ∈ s.blank ∧ ∀ r ≤ x, it ≠ .v r) ∧
      (∀ r ≤ x, t.v[r] = bytes r) ∧ ∀ r > x, t.v[r] = s.v[r]

/-- 44_index_memory.md, R155 and R156, and 20_memory.md, R63: what LD [I], Vx stored, a later LD Vx, [I] at the same `I`
brings back, whatever the registers hold by then. -/
def Obligations.BlockStoreThenLoadRestores : Prop :=
  ∀ (s t : State) (x : Reg) (other : Vector Byte 16), exec (.storeRegs x) s = .next t → t.phase ≠ .faulted →
    ∃ u, exec (.loadRegs x) { t with v := other } = .next u ∧ u.mem = t.mem ∧
      (∀ r ≤ x, u.v[r] = s.v[r]) ∧ ∀ r > x, u.v[r] = other[r]

/-- 20_memory.md, R55 to R57, 44_index_memory.md, R153, and 45_display.md, R171 (decisions D3, D23): an access of `len`
cells that passes 0xFFF raises F_MEM_RANGE with the lowest failing address and changes nothing else. That it does so also
where a register LD [I], Vx stores, or a cell inside memory that is read, holds no value is the model's deduction: the
addresses are checked before those reads (log 15). -/
def Obligations.AccessPastMemoryFaults : Prop :=
  ∀ (i : Instr) (s : State) (len : Nat), i.Readable s → 1 ≤ len →
    ((∃ x, i = .ldB x ∧ len = 3) ∨ (∃ x : Reg, i = .storeRegs x ∧ len = x.val + 1) ∨
      (∃ x : Reg, i = .loadRegs x ∧ len = x.val + 1) ∨ (∃ x y, ∃ n : Count, i = .drw x y n ∧ len = n.val)) →
    0xFFF < s.index.toNat + (len - 1) →
    exec i s = .next { s with
      phase := .faulted, faultRecord := some ⟨.memRange (max s.index.toNat 0x1000), some (s.pc - 2)⟩ }

/-- 20_memory.md, R56 and R62 (decision D6): under the default policy LD B and LD [I], Vx at an `I` in the glyph region
raise F_GLYPH_WRITE with that address and change nothing else. That LD [I], Vx does so also where a register it stores
holds no value is the model's deduction: the addresses are checked before that read (log 15). -/
def Obligations.GlyphStoreFaults : Prop :=
  ∀ (i : Instr) (s : State), i.Readable s → (∃ x, i = .ldB x ∨ i = .storeRegs x) →
    s.index.toNat < 0x50 → s.config.glyphWritePolicy = .fault →
    exec i s = .next { s with
      phase := .faulted, faultRecord := some ⟨.glyphWrite s.index.toNat, some (s.pc - 2)⟩ }

/-! ## Display -/

/-- 45_display.md, R170: 0x00E0 is CLS: every pixel is 0; VF and all else are unchanged, and no capability call is made. -/
def Obligations.ClearScreenClearsAll : Prop :=
  decode 0x00E0 = .ok .cls ∧ ∀ s : State, ∃ t, exec .cls s = .next t ∧ t = { s with pix := t.pix } ∧
    ∀ x y, x < s.config.width → y < s.config.height → t.pixel x y = false

/-- 45_display.md, R171 (bit order and read order are decision D16): each pixel is toggled once for each 1 bit of the
sprite that lands on it, coordinates wrapping, and VF is 1 iff some pixel went from 1 to 0. That is a pixel some bit lands
on that was set, or, in a buffer narrower than 8 or lower than the sprite, one that two bits land on.
A DRW with no rows does not read `I` (log 15). -/
def Obligations.DrawTogglesSprite : Prop :=
  ∀ (s : State) (x y : Reg) (n : Count) (rows : List Byte), s.config.Legal →
    (Instr.drw x y n).Readable s → rows.length = n.val → (n.val ≠ 0 → s.index.toNat + n.val ≤ 0x1000) →
    (∀ r (h : r < rows.length), s.cell (s.index.toNat + r) = some rows[r]) →
    ∃ t, exec (.drw x y n) s = .next t ∧
      t = { s with v := s.v.set 15 t.v[15], blank := s.blank.filter (· ≠ .v 15), pix := t.pix } ∧
      (∀ px py, px < s.config.width → py < s.config.height →
        t.pixel px py =
          (s.pixel px py ^^ decide (spriteHits s.config s.v[x].toNat s.v[y].toNat rows px py % 2 = 1))) ∧
      (t.v[15] = 0 ∨ t.v[15] = 1) ∧
      (t.v[15] = 1 ↔ ∃ px py, px < s.config.width ∧ py < s.config.height ∧
        ((s.pixel px py = true ∧ 1 ≤ spriteHits s.config s.v[x].toNat s.v[y].toNat rows px py) ∨
          2 ≤ spriteHits s.config s.v[x].toNat s.v[y].toNat rows px py))

/-- 45_display.md, R172, under the condition it gives: the second of two draws at one place restores the buffer; on a
clear buffer, where the sprite's bits land on distinct pixels, the first reports no collision and the second reports one
if the sprite has a 1 bit. -/
def Obligations.DrawTwiceRestores : Prop :=
  ∀ (s t : State) (x y : Reg) (n : Count), exec (.drw x y n) s = .next t → t.phase ≠ .faulted →
    t.v[x] = s.v[x] → t.v[y] = s.v[y] →
    ∃ u, exec (.drw x y n) t = .next u ∧ u.pix = s.pix ∧
      (s.pix.bits = 0 → 8 ≤ s.config.width → n.val ≤ s.config.height →
        t.v[15] = 0 ∧ (t.pix ≠ s.pix → u.v[15] = 1) ∧ (t.pix = s.pix → u.v[15] = 0) ∧
        (t.pix ≠ s.pix ↔ ∃ r b, r < n.val ∧ s.cell (s.index.toNat + r) = some b ∧ b ≠ 0))

/-! ## Timers and keys -/

/-- 46_timers_keys.md, R180 and R182, and R183's write, which commands no sound: neither the gate nor a request changes. -/
def Obligations.TimerAccess : Prop :=
  ∀ (s : State) (x : Reg),
    exec (.ldVxDt x) s = .next { s with v := s.v.set x s.dt, blank := s.blank.filter (· ≠ .v x) } ∧
    (Item.v x ∉ s.blank →
      exec (.ldDtVx x) s = .next { s with dt := s.v[x] } ∧ exec (.ldStVx x) s = .next { s with st := s.v[x] })

/-- 46_timers_keys.md, R184 to R186 (decision D18): SKP and SKNP ask the capability for the key `V[x]` names and skip on
its answer; a value above 0x0F is F_KEY_RANGE before any call, and a failing call is F_CAPABILITY. The call is
non-blocking (60_exceptions.md R225), so there is a next state in every case. -/
def Obligations.KeySkips : Prop :=
  ∀ (s : State) (x : Reg), Item.v x ∉ s.blank →
    (∀ (key : Key) (keys : BitVec 16), s.v[x].toNat = key.val → s.answers.keys = .returns keys →
      exec (.skp x) s = .next { s with
        pc := if keys.getLsbD key.val then s.pc + 2 else s.pc, calls := s.calls ++ [.isKeyPressed key] } ∧
      exec (.sknp x) s = .next { s with
        pc := if keys.getLsbD key.val then s.pc else s.pc + 2, calls := s.calls ++ [.isKeyPressed key] }) ∧
    ∀ i, i = .skp x ∨ i = .sknp x →
      (0x0F < s.v[x].toNat → exec i s = .next { s with
        phase := .faulted, faultRecord := some ⟨.keyRange s.v[x], some (s.pc - 2)⟩ }) ∧
      (∀ key : Key, s.v[x].toNat = key.val → s.answers.keys = .fails → exec i s = .next { s with
        phase := .faulted, faultRecord := some ⟨.capability (.isKeyPressed key), some (s.pc - 2)⟩,
        calls := s.calls ++ [.isKeyPressed key] }) ∧
      ∃ t, exec i s = .next t

/-- 46_timers_keys.md, R181 (decision D19): the key the capability answers, or `KEY_SENTINEL` if the wait is interrupted,
is written to `V[x]` and nothing else changes; a failing call is F_CAPABILITY, and one never answered leaves no next
state. -/
def Obligations.BlockingKeyRead : Prop :=
  ∀ (s : State) (x : Reg),
    (∀ event, s.answers.waitForKey = .returns event → ∃ t, exec (.ldVxK x) s = .next t ∧
      t = { s with
        v := s.v.set x t.v[x], blank := s.blank.filter (· ≠ .v x), calls := s.calls ++ [.waitForKey] } ∧
      (∀ d : Key, event = .key d → t.v[x].toNat = d.val) ∧
      (event = .interrupted → t.v[x] = s.config.keySentinel)) ∧
    (s.answers.waitForKey = .fails → exec (.ldVxK x) s = .next { s with
      phase := .faulted, faultRecord := some ⟨.capability .waitForKey, some (s.pc - 2)⟩,
      calls := s.calls ++ [.waitForKey] }) ∧
    (s.answers.waitForKey = .noAnswer → exec (.ldVxK x) s = .fault (.waitsForever .waitForKey))

/-! ## What an instruction leaves unchanged -/

/-- 10_state.md, R20 and R21: of the V registers an instruction changes only its destination and, if it is one of the six
that write a flag, VF. A register it leaves alone is also as written or unwritten as before (R22). -/
def Obligations.RegisterFrame : Prop :=
  ∀ (i : Instr) (s t : State) (r : Reg), exec i s = .next t →
    r ∉ i.namedDest → ¬(r = 15 ∧ i.writesFlag = true) →
    t.v[r] = s.v[r] ∧ (Item.v r ∈ t.blank ↔ Item.v r ∈ s.blank)

/-- 10_state.md, R21: VF is written as a side effect by exactly six instructions, which write it whatever their
destination, is otherwise written only as the named destination, and is read only where named: when it is no source, its
value makes no difference to anything but VF itself. -/
def Obligations.FlagRegisterDiscipline : Prop :=
  (∀ (i : Instr) (s t : State), exec i s = .next t → t.v[15] ≠ s.v[15] →
    15 ∈ i.namedDest ∨
    (∃ x y, i = .addReg x y ∨ i = .subReg x y ∨ i = .shr x y ∨ i = .subn x y ∨ i = .shl x y) ∨
    ∃ x y n, i = .drw x y n) ∧
  (∀ (i : Instr) (s t : State), exec i s = .next t → i.writesFlag = true → t.phase ≠ .faulted →
    Item.v 15 ∉ t.blank ∧ (15 ∉ i.namedDest → t.v[15] = 0 ∨ t.v[15] = 1)) ∧
  ∀ (i : Instr) (s : State) (b : Byte), 15 ∉ i.sourceRegs s.config →
    onNext (fun t => { t with v := t.v.set 15 0 }) (exec i { s with v := s.v.set 15 b }) =
      onNext (fun t => { t with v := t.v.set 15 0 }) (exec i s)

/-- 20_memory.md, R50 and R54: every cell reads as before except those LD B and LD [I], Vx store to, which lie at `I` and
the cells after it. -/
def Obligations.MemoryFrame : Prop :=
  ∀ (i : Instr) (s t : State) (a : Nat), exec i s = .next t → a ∉ i.storedCells s → t.cell a = s.cell a

/-- 10_state.md, R23, R25 to R30: who writes what else. `pc` moves (beyond the cycle's advance) only by a skip or a
transfer, `I` only by LD I, ADD I and LD F, the stack only by CALL and RET and then in one slot at most, DT and ST only by
their own loads, the pixel buffer only by CLS and DRW. -/
def Obligations.SpecialRegisterFrame : Prop :=
  ∀ (i : Instr) (s t : State), exec i s = .next t →
    (t.pc ≠ s.pc → i = .ret ∨ (∃ nnn, i = .jp nnn ∨ i = .call nnn ∨ i = .jpOff nnn) ∨
      (∃ x kk, i = .seImm x kk ∨ i = .sneImm x kk) ∨ (∃ x y, i = .seReg x y ∨ i = .sneReg x y) ∨
      ∃ x, i = .skp x ∨ i = .sknp x) ∧
    (t.index ≠ s.index → (∃ nnn, i = .ldI nnn) ∨ ∃ x, i = .addI x ∨ i = .ldF x) ∧
    (t.sp ≠ s.sp → i = .ret ∨ ∃ nnn, i = .call nnn) ∧
    (∀ j : Fin 16, t.stack[j] ≠ s.stack[j] → (∃ nnn, i = .call nnn) ∧ j.val = s.sp.toNat) ∧
    (t.dt ≠ s.dt → ∃ x, i = .ldDtVx x) ∧
    (t.st ≠ s.st → ∃ x, i = .ldStVx x) ∧
    (t.pix ≠ s.pix → i = .cls ∨ ∃ x y n, i = .drw x y n)

/-- 10_state.md, R34 and R35, and 20_memory.md, R64: no instruction changes the parameters, the sound gate or the answers
to come; only the three key instructions make a capability call, one at most; and the scheduler's phase and the fault
record change only together, by a fault. -/
def Obligations.ControlStateFrame : Prop :=
  ∀ (i : Instr) (s t : State), exec i s = .next t →
    t.config = s.config ∧ t.soundGate = s.soundGate ∧ t.inputs = s.inputs ∧ t.draws = s.draws ∧
    (t.calls = s.calls ∨
      (∃ x key, (i = .skp x ∨ i = .sknp x) ∧ t.calls = s.calls ++ [.isKeyPressed key]) ∨
      ∃ x, i = .ldVxK x ∧ t.calls = s.calls ++ [.waitForKey]) ∧
    ((t.phase = s.phase ∧ t.faultRecord = s.faultRecord) ∨
      (t.phase = .faulted ∧ ∃ k, t.faultRecord = some ⟨k, some (s.pc - 2)⟩)) ∧
    ∀ it, it ∈ t.blank → it ∈ s.blank

/-- 10_state.md, R29: no instruction reads ST: with another value in it, every instruction but LD ST, Vx does exactly the
same and leaves that value. -/
def Obligations.SoundTimerIsNeverRead : Prop :=
  ∀ (i : Instr) (s : State) (b : Byte), (∀ x, i ≠ .ldStVx x) →
    exec i { s with st := b } = onNext (fun t => { t with st := b }) (exec i s)

/-! ## The scheduler and the timers -/

/-- 60_exceptions.md, R230, and 70_reset_and_hazards.md, R250 step 6: INIT, CHECK and FINAL each make their one call and
move on, CHECK by its answer; the call failing is F_CAPABILITY outside any instruction, and a call never answered
leaves no next state. -/
def Obligations.LifecyclePhases : Prop :=
  (∀ s : State, s.phase = .init →
    (s.answers.init = .returns () → step s = .next ((s.afterRequest .init).setPhase .check)) ∧
    (s.answers.init = .fails → step s = .next ((s.afterRequest .init).enterFault none (.capability .init))) ∧
    (s.answers.init = .noAnswer → step s = .fault (.waitsForever .init))) ∧
  (∀ s : State, s.phase = .check →
    (∀ close, s.answers.shouldClose = .returns close →
      step s = .next ((s.afterRequest .shouldClose).setPhase (if close then .final else .service))) ∧
    (s.answers.shouldClose = .fails →
      step s = .next ((s.afterRequest .shouldClose).enterFault none (.capability .shouldClose))) ∧
    (s.answers.shouldClose = .noAnswer → step s = .fault (.waitsForever .shouldClose))) ∧
  ∀ s : State, s.phase = .final →
    (s.answers.finalize = .returns () → step s = .next ((s.afterRequest .finalize).setPhase .halted)) ∧
    (s.answers.finalize = .fails →
      step s = .next ((s.afterRequest .finalize).enterFault none (.capability .finalize))) ∧
    (s.answers.finalize = .noAnswer → step s = .fault (.waitsForever .finalize))

/-- 60_exceptions.md, R216, R230 and R231 (decisions D20, D21): one iteration of SERVICE draws, updates, takes the tick if
one is due, and leaves the loop if unthrottled or if the budget has elapsed; nothing else changes. A tick commands the
gate by the sound timer as it stands after the decrement. -/
def Obligations.ServiceIteration : Prop :=
  ∀ s : State, s.phase = .service → s.answers.drawScreen = .returns () → s.answers.update = .returns () →
    (s.answers.tickDue = true → s.answers.sound = .returns ()) →
    ∃ t, step s = .next t ∧
      t = { s with
        dt := t.dt, st := t.st, soundGate := t.soundGate,
        phase := if s.config.freq = 0 ∨ s.answers.budgetElapsed = true then .execute else .service,
        calls := t.calls, inputs := s.inputs.tail, draws := s.draws + 1 } ∧
      (s.answers.tickDue = false → t.dt = s.dt ∧ t.st = s.st ∧ t.soundGate = s.soundGate) ∧
      (s.answers.tickDue = true → t.soundGate = if t.st = 0 then .paused else .resumed) ∧
      t.calls = [.drawScreen, .update (if s.config.freq = 0 then .poll s.config.pollInterval else .remaining)] ++
        (if s.answers.tickDue then [if t.st = 0 then .soundPause else .soundResume] else [])

/-- 60_exceptions.md, R201 row 8, R226 and R237: a call of SERVICE that fails is F_CAPABILITY with that call, outside any
instruction (log 6), and one never answered leaves no next state. The order of the calls is decision D20; that both
timers have been decremented when the sound command of their tick fails is log 36. -/
def Obligations.ServiceCallsThatFail : Prop :=
  ∀ (s : State) (update gate : CapCall), s.phase = .service →
    update = .update (if s.config.freq = 0 then .poll s.config.pollInterval else .remaining) →
    gate = (if s.st.toNat ≤ 1 then .soundPause else .soundResume) →
    (s.answers.drawScreen = .fails → step s = .next { s with
      phase := .faulted, faultRecord := some ⟨.capability .drawScreen, none⟩,
      calls := [.drawScreen], inputs := s.inputs.tail, draws := s.draws + 1 }) ∧
    (s.answers.drawScreen = .noAnswer → step s = .fault (.waitsForever .drawScreen)) ∧
    (s.answers.drawScreen = .returns () →
      (s.answers.update = .fails → step s = .next { s with
        phase := .faulted, faultRecord := some ⟨.capability update, none⟩,
        calls := [.drawScreen, update], inputs := s.inputs.tail, draws := s.draws + 1 }) ∧
      (s.answers.update = .noAnswer → step s = .fault (.waitsForever update)) ∧
      (s.answers.update = .returns () → s.answers.tickDue = true →
        (s.answers.sound = .fails → ∃ t, step s = .next t ∧ t = { s with
            dt := t.dt, st := t.st, phase := .faulted, faultRecord := some ⟨.capability gate, none⟩,
            calls := [.drawScreen, update, gate], inputs := s.inputs.tail, draws := s.draws + 1 } ∧
          t.dt.toNat = s.dt.toNat - 1 ∧ t.st.toNat = s.st.toNat - 1) ∧
        (s.answers.sound = .noAnswer → step s = .fault (.waitsForever gate))))

/-- 60_exceptions.md, R215: a timer tick takes 1 from each timer that is above 0, both in the same tick, each whatever the
other holds, and then commands the sound gate (R216). That the sound command is the last request of its step rests on
the order draw, update, tick (R230), which is decision D20 (log 34). -/
def Obligations.TimerTickCountsDown : Prop :=
  ∀ s : State, s.phase = .service → s.answers.drawScreen = .returns () → s.answers.update = .returns () →
    s.answers.tickDue = true → s.answers.sound = .returns () →
    ∃ t, step s = .next t ∧
      t.dt.toNat = (if 0 < s.dt.toNat then s.dt.toNat - 1 else 0) ∧
      t.st.toNat = (if 0 < s.st.toNat then s.st.toNat - 1 else 0) ∧
      (t.calls.getLast? = some .soundResume ∨ t.calls.getLast? = some .soundPause)

/-- 10_state.md, R36: outside the Executor, that is in every step that is no instruction cycle, the only engine state ever
written is DT and ST. -/
def Obligations.OnlyTicksWriteOutsideExecutor : Prop :=
  ∀ s t : State, step s = .next t → s.phase ≠ .execute →
    t = { s with
      dt := t.dt, st := t.st, soundGate := t.soundGate, phase := t.phase, faultRecord := t.faultRecord,
      calls := t.calls, inputs := t.inputs, draws := t.draws } ∧
    (t.dt ≠ s.dt ∨ t.st ≠ s.st → s.phase = .service ∧ s.answers.tickDue = true)

/-- 60_exceptions.md, R230: the scheduler moves along the edges of its state machine, a fault only to FAULTED; HALTED and
FAULTED have no edge, and a step there has no next state. -/
def Obligations.SchedulerEdges : Prop :=
  (∀ s t : State, step s = .next t → t.phase ∈ s.phase.next) ∧
  (∀ s : State, s.phase = .halted → step s = .refused .runHalted) ∧
  ∀ s : State, s.phase = .faulted → step s = .fault (.runFaulted s.faultRecord)

/-- 60_exceptions.md, R230 to R232, and 95_test_vectors.md, L2.10: unthrottled, from a CHECK that sees no close request,
three steps (one service iteration with no tick due among them) run exactly one instruction. -/
def Obligations.UnthrottledRoundRunsOneInstruction : Prop :=
  ∀ (s : State) (a b c : Answers) (rest : List Answers) (hi lo : Byte) (i : Instr),
    s.phase = .check → s.config.freq = 0 → s.inputs = a :: b :: c :: rest →
    a.shouldClose = .returns false → b.drawScreen = .returns () → b.update = .returns () → b.tickDue = false →
    s.pc.toNat + 1 ≤ 0xFFF → s.cell s.pc.toNat = some hi → s.cell (s.pc.toNat + 1) = some lo →
    decode (hi ++ lo) = .ok i →
    ∃ t u, step s = .next t ∧ step t = .next u ∧ t.phase = .service ∧ u.phase = .execute ∧
      step u = onNext (fun t => t.afterCycle.nextAnswers)
        (exec i { s with
          phase := .execute, pc := s.pc + 2, calls := [], inputs := c :: rest, draws := s.draws + 2 })

/-! ## Reset, load and invariants -/

/-- 70_reset_and_hazards.md, R250, 00_scope.md, R7, and 10_state.md, R22 and R33: the state right after reset under the
default parameters, the zeros of decision D2, and the default parameters, the glyph bytes of decision D28 (log 31) among
them; and under `RESET_POLICY` = `Unwritten` what holds no value instead (decision D2): the V registers, `I`, the stack
slots and every cell outside the glyph table, while `SP`, `DT`, `ST` and the pixels are 0 all the same. -/
def Obligations.ResetState : Prop :=
  ((∀ r : Reg, State.reset.v[r] = 0) ∧ State.reset.pc = 0x200 ∧ State.reset.index = 0 ∧ State.reset.sp = 0 ∧
    (∀ j : Fin 16, State.reset.stack[j] = 0) ∧ State.reset.dt = 0 ∧ State.reset.st = 0 ∧
    (∀ x y, State.reset.pixel x y = false) ∧ State.reset.phase = .init ∧ State.reset.faultRecord = none ∧
    State.reset.soundGate = .notCommanded ∧ State.reset.blank = [] ∧
    ∀ a < 0x1000, State.reset.cell a = some (if h : a < 80 then State.reset.config.glyphTable[a] else 0)) ∧
  (State.reset.config.width = 64 ∧ State.reset.config.height = 32 ∧ State.reset.config.freq = 500 ∧
    State.reset.config.glyphWritePolicy = .fault ∧ State.reset.config.jumpOffsetReg = 0 ∧
    State.reset.config.arithFlagLast = true ∧ State.reset.config.shiftFlagFirst = true ∧
    State.reset.config.resetPolicy = .zero ∧
    State.reset.config.glyphTable.toList =
      [0xF0, 0x90, 0x90, 0x90, 0xF0] ++ [0x20, 0x60, 0x20, 0x20, 0x70] ++ [0xF0, 0x10, 0xF0, 0x80, 0xF0] ++
      [0xF0, 0x10, 0xF0, 0x10, 0xF0] ++ [0x90, 0x90, 0xF0, 0x10, 0x10] ++ [0xF0, 0x80, 0xF0, 0x10, 0xF0] ++
      [0xF0, 0x80, 0xF0, 0x90, 0xF0] ++ [0xF0, 0x10, 0x20, 0x40, 0x40] ++ [0xF0, 0x90, 0xF0, 0x90, 0xF0] ++
      [0xF0, 0x90, 0xF0, 0x10, 0xF0] ++ [0xF0, 0x90, 0xF0, 0x90, 0x90] ++ [0xE0, 0x90, 0xE0, 0x90, 0xE0] ++
      [0xF0, 0x80, 0x80, 0x80, 0xF0] ++ [0xE0, 0x90, 0x90, 0x90, 0xE0] ++ [0xF0, 0x80, 0xF0, 0x80, 0xF0] ++
      [0xF0, 0x80, 0xF0, 0x80, 0x80]) ∧
  ∀ c : Config, c.resetPolicy = .unwritten →
    (∀ r : Reg, Item.v r ∈ (State.resetWith c).blank) ∧ Item.index ∈ (State.resetWith c).blank ∧
    (∀ j : Fin 16, Item.stack j ∈ (State.resetWith c).blank) ∧
    (∀ a < 0x1000, (State.resetWith c).cell a = if h : a < 80 then some c.glyphTable[a] else none) ∧
    (State.resetWith c).sp = 0 ∧ (State.resetWith c).dt = 0 ∧ (State.resetWith c).st = 0 ∧
    ∀ x y, (State.resetWith c).pixel x y = false

/-- 70_reset_and_hazards.md, R250 to R252, and 60_exceptions.md, R234 (decisions D26, D27; log 32): the image lies verbatim
from 0x200 on, every other cell is as at reset, and nothing else changes. A boot with legal parameters and an image that
fits answers the reset state with the image loaded, whatever the answers to come; a failing `width()` or `height()` is
F_CAPABILITY (R201 row 8), one never answered leaves no core to run (R226), and any other configuration is turned away. -/
def Obligations.LoadPlacesImageVerbatim : Prop :=
  (∀ (s : State) (image : List Byte),
    (image.length ≤ 0xE00 → ∃ t, s.loadImage image = some t ∧ t = { s with mem := t.mem } ∧
      ∀ a, t.cell a = if h : 0x200 ≤ a ∧ a < 0x200 + image.length then some image[a - 0x200] else s.cell a) ∧
    (0xE00 < image.length → s.loadImage image = none)) ∧
  ∀ (c : Config) (image : List Byte) (width height : Response Unit) (answers : List Answers),
    (1 ≤ c.width → 1 ≤ c.height → c.freq ≤ 1000000000 → image.length ≤ 0xE00 →
      (∃ t, boot c image (.returns ()) (.returns ()) answers = .next t ∧
        t = { State.resetWith c with mem := t.mem, inputs := answers } ∧
        ∀ a, t.cell a = if h : 0x200 ≤ a ∧ a < 0x200 + image.length then some image[a - 0x200]
          else (State.resetWith c).cell a) ∧
      boot c image .fails height answers = .next { State.resetWith c with
        phase := .faulted, faultRecord := some ⟨.capability .width, none⟩, calls := [.width] } ∧
      boot c image .noAnswer height answers = .fault (.waitsForever .width) ∧
      boot c image (.returns ()) .fails answers = .next { State.resetWith c with
        phase := .faulted, faultRecord := some ⟨.capability .height, none⟩, calls := [.width, .height] } ∧
      boot c image (.returns ()) .noAnswer answers = .fault (.waitsForever .height)) ∧
    (c.width = 0 ∨ c.height = 0 ∨ 1000000000 < c.freq ∨ 0xE00 < image.length →
      boot c image width height answers = .refused .illegalConfiguration)

/-- 20_memory.md, R62 (decision D6): under the default policy no step of any kind changes a cell of the glyph region. -/
def Obligations.GlyphRegionIsImmutable : Prop :=
  ∀ (s t : State) (a : Nat), step s = .next t → s.config.glyphWritePolicy = .fault → a < 0x50 →
    t.cell a = s.cell a

/-- 10_state.md, R22, R24, R26, R30, 20_memory.md, R50, R62, and 60_exceptions.md, R200: the invariant `Inv`: canonical
memory inside the address space, the glyph region never stored to under the default policy, `SP` 0 to 16, a `pc` that
never wraps, a pixel buffer of `W` × `H` bits, a fault record exactly in FAULTED, and everything written under the default
reset policy. Every step keeps it. -/
def Obligations.StepKeepsInv : Prop :=
  ∀ s t : State, Inv s → step s = .next t → Inv t

/-- 70_reset_and_hazards.md, R250 to R252: the invariant holds of the state right after reset, and under every legal
parameter setting. -/
def Obligations.ResetMeetsInv : Prop :=
  Inv State.reset ∧ ∀ c : Config, c.Legal → Inv (State.resetWith c)

/-- 70_reset_and_hazards.md, R250 to R252: every state a run can be in, from a boot with any legal parameters and any
image that fits, whatever `width()` and `height()` answer and whatever the answers to come are (60_exceptions.md R225,
R226), meets the invariant. -/
def Obligations.ReachableStatesMeetInv : Prop :=
  ∀ s : State, Reachable s → Inv s
end

