-- ==== Sys2Proof/Laws/State.lean ====
section
/-!
SUPPORT. One lemma per field per update of the state, each true by rfl.
-/

namespace Sys2Proof.Machine

/-! ### State.setV -/

@[simp] theorem State.setV_v (x : Reg) (b : Byte) (s : State) : (s.setV x b).v = s.v.set x b := rfl
@[simp] theorem State.setV_pc (x : Reg) (b : Byte) (s : State) : (s.setV x b).pc = s.pc := rfl
@[simp] theorem State.setV_index (x : Reg) (b : Byte) (s : State) : (s.setV x b).index = s.index := rfl
@[simp] theorem State.setV_sp (x : Reg) (b : Byte) (s : State) : (s.setV x b).sp = s.sp := rfl
@[simp] theorem State.setV_stack (x : Reg) (b : Byte) (s : State) : (s.setV x b).stack = s.stack := rfl
@[simp] theorem State.setV_dt (x : Reg) (b : Byte) (s : State) : (s.setV x b).dt = s.dt := rfl
@[simp] theorem State.setV_st (x : Reg) (b : Byte) (s : State) : (s.setV x b).st = s.st := rfl
@[simp] theorem State.setV_pix (x : Reg) (b : Byte) (s : State) : (s.setV x b).pix = s.pix := rfl
@[simp] theorem State.setV_mem (x : Reg) (b : Byte) (s : State) : (s.setV x b).mem = s.mem := rfl
@[simp] theorem State.setV_phase (x : Reg) (b : Byte) (s : State) : (s.setV x b).phase = s.phase := rfl
@[simp] theorem State.setV_faultRecord (x : Reg) (b : Byte) (s : State) : (s.setV x b).faultRecord = s.faultRecord := rfl
@[simp] theorem State.setV_soundGate (x : Reg) (b : Byte) (s : State) : (s.setV x b).soundGate = s.soundGate := rfl
@[simp] theorem State.setV_blank (x : Reg) (b : Byte) (s : State) : (s.setV x b).blank = fill (.v x) s.blank := rfl
@[simp] theorem State.setV_config (x : Reg) (b : Byte) (s : State) : (s.setV x b).config = s.config := rfl
@[simp] theorem State.setV_calls (x : Reg) (b : Byte) (s : State) : (s.setV x b).calls = s.calls := rfl
@[simp] theorem State.setV_inputs (x : Reg) (b : Byte) (s : State) : (s.setV x b).inputs = s.inputs := rfl
@[simp] theorem State.setV_draws (x : Reg) (b : Byte) (s : State) : (s.setV x b).draws = s.draws := rfl

/-! ### State.setIndex -/

@[simp] theorem State.setIndex_v (w : Word) (s : State) : (s.setIndex w).v = s.v := rfl
@[simp] theorem State.setIndex_pc (w : Word) (s : State) : (s.setIndex w).pc = s.pc := rfl
@[simp] theorem State.setIndex_index (w : Word) (s : State) : (s.setIndex w).index = w := rfl
@[simp] theorem State.setIndex_sp (w : Word) (s : State) : (s.setIndex w).sp = s.sp := rfl
@[simp] theorem State.setIndex_stack (w : Word) (s : State) : (s.setIndex w).stack = s.stack := rfl
@[simp] theorem State.setIndex_dt (w : Word) (s : State) : (s.setIndex w).dt = s.dt := rfl
@[simp] theorem State.setIndex_st (w : Word) (s : State) : (s.setIndex w).st = s.st := rfl
@[simp] theorem State.setIndex_pix (w : Word) (s : State) : (s.setIndex w).pix = s.pix := rfl
@[simp] theorem State.setIndex_mem (w : Word) (s : State) : (s.setIndex w).mem = s.mem := rfl
@[simp] theorem State.setIndex_phase (w : Word) (s : State) : (s.setIndex w).phase = s.phase := rfl
@[simp] theorem State.setIndex_faultRecord (w : Word) (s : State) : (s.setIndex w).faultRecord = s.faultRecord := rfl
@[simp] theorem State.setIndex_soundGate (w : Word) (s : State) : (s.setIndex w).soundGate = s.soundGate := rfl
@[simp] theorem State.setIndex_blank (w : Word) (s : State) : (s.setIndex w).blank = fill .index s.blank := rfl
@[simp] theorem State.setIndex_config (w : Word) (s : State) : (s.setIndex w).config = s.config := rfl
@[simp] theorem State.setIndex_calls (w : Word) (s : State) : (s.setIndex w).calls = s.calls := rfl
@[simp] theorem State.setIndex_inputs (w : Word) (s : State) : (s.setIndex w).inputs = s.inputs := rfl
@[simp] theorem State.setIndex_draws (w : Word) (s : State) : (s.setIndex w).draws = s.draws := rfl

/-! ### State.setStack -/

@[simp] theorem State.setStack_v (j : Fin stackDepth) (w : Word) (s : State) : (s.setStack j w).v = s.v := rfl
@[simp] theorem State.setStack_pc (j : Fin stackDepth) (w : Word) (s : State) : (s.setStack j w).pc = s.pc := rfl
@[simp] theorem State.setStack_index (j : Fin stackDepth) (w : Word) (s : State) : (s.setStack j w).index = s.index := rfl
@[simp] theorem State.setStack_sp (j : Fin stackDepth) (w : Word) (s : State) : (s.setStack j w).sp = s.sp := rfl
@[simp] theorem State.setStack_stack (j : Fin stackDepth) (w : Word) (s : State) : (s.setStack j w).stack = s.stack.set j w := rfl
@[simp] theorem State.setStack_dt (j : Fin stackDepth) (w : Word) (s : State) : (s.setStack j w).dt = s.dt := rfl
@[simp] theorem State.setStack_st (j : Fin stackDepth) (w : Word) (s : State) : (s.setStack j w).st = s.st := rfl
@[simp] theorem State.setStack_pix (j : Fin stackDepth) (w : Word) (s : State) : (s.setStack j w).pix = s.pix := rfl
@[simp] theorem State.setStack_mem (j : Fin stackDepth) (w : Word) (s : State) : (s.setStack j w).mem = s.mem := rfl
@[simp] theorem State.setStack_phase (j : Fin stackDepth) (w : Word) (s : State) : (s.setStack j w).phase = s.phase := rfl
@[simp] theorem State.setStack_faultRecord (j : Fin stackDepth) (w : Word) (s : State) : (s.setStack j w).faultRecord = s.faultRecord := rfl
@[simp] theorem State.setStack_soundGate (j : Fin stackDepth) (w : Word) (s : State) : (s.setStack j w).soundGate = s.soundGate := rfl
@[simp] theorem State.setStack_blank (j : Fin stackDepth) (w : Word) (s : State) : (s.setStack j w).blank = fill (.stack j) s.blank := rfl
@[simp] theorem State.setStack_config (j : Fin stackDepth) (w : Word) (s : State) : (s.setStack j w).config = s.config := rfl
@[simp] theorem State.setStack_calls (j : Fin stackDepth) (w : Word) (s : State) : (s.setStack j w).calls = s.calls := rfl
@[simp] theorem State.setStack_inputs (j : Fin stackDepth) (w : Word) (s : State) : (s.setStack j w).inputs = s.inputs := rfl
@[simp] theorem State.setStack_draws (j : Fin stackDepth) (w : Word) (s : State) : (s.setStack j w).draws = s.draws := rfl

/-! ### State.setPc -/

@[simp] theorem State.setPc_v (w : Word) (s : State) : (s.setPc w).v = s.v := rfl
@[simp] theorem State.setPc_pc (w : Word) (s : State) : (s.setPc w).pc = w := rfl
@[simp] theorem State.setPc_index (w : Word) (s : State) : (s.setPc w).index = s.index := rfl
@[simp] theorem State.setPc_sp (w : Word) (s : State) : (s.setPc w).sp = s.sp := rfl
@[simp] theorem State.setPc_stack (w : Word) (s : State) : (s.setPc w).stack = s.stack := rfl
@[simp] theorem State.setPc_dt (w : Word) (s : State) : (s.setPc w).dt = s.dt := rfl
@[simp] theorem State.setPc_st (w : Word) (s : State) : (s.setPc w).st = s.st := rfl
@[simp] theorem State.setPc_pix (w : Word) (s : State) : (s.setPc w).pix = s.pix := rfl
@[simp] theorem State.setPc_mem (w : Word) (s : State) : (s.setPc w).mem = s.mem := rfl
@[simp] theorem State.setPc_phase (w : Word) (s : State) : (s.setPc w).phase = s.phase := rfl
@[simp] theorem State.setPc_faultRecord (w : Word) (s : State) : (s.setPc w).faultRecord = s.faultRecord := rfl
@[simp] theorem State.setPc_soundGate (w : Word) (s : State) : (s.setPc w).soundGate = s.soundGate := rfl
@[simp] theorem State.setPc_blank (w : Word) (s : State) : (s.setPc w).blank = s.blank := rfl
@[simp] theorem State.setPc_config (w : Word) (s : State) : (s.setPc w).config = s.config := rfl
@[simp] theorem State.setPc_calls (w : Word) (s : State) : (s.setPc w).calls = s.calls := rfl
@[simp] theorem State.setPc_inputs (w : Word) (s : State) : (s.setPc w).inputs = s.inputs := rfl
@[simp] theorem State.setPc_draws (w : Word) (s : State) : (s.setPc w).draws = s.draws := rfl

/-! ### State.setSp -/

@[simp] theorem State.setSp_v (b : Byte) (s : State) : (s.setSp b).v = s.v := rfl
@[simp] theorem State.setSp_pc (b : Byte) (s : State) : (s.setSp b).pc = s.pc := rfl
@[simp] theorem State.setSp_index (b : Byte) (s : State) : (s.setSp b).index = s.index := rfl
@[simp] theorem State.setSp_sp (b : Byte) (s : State) : (s.setSp b).sp = b := rfl
@[simp] theorem State.setSp_stack (b : Byte) (s : State) : (s.setSp b).stack = s.stack := rfl
@[simp] theorem State.setSp_dt (b : Byte) (s : State) : (s.setSp b).dt = s.dt := rfl
@[simp] theorem State.setSp_st (b : Byte) (s : State) : (s.setSp b).st = s.st := rfl
@[simp] theorem State.setSp_pix (b : Byte) (s : State) : (s.setSp b).pix = s.pix := rfl
@[simp] theorem State.setSp_mem (b : Byte) (s : State) : (s.setSp b).mem = s.mem := rfl
@[simp] theorem State.setSp_phase (b : Byte) (s : State) : (s.setSp b).phase = s.phase := rfl
@[simp] theorem State.setSp_faultRecord (b : Byte) (s : State) : (s.setSp b).faultRecord = s.faultRecord := rfl
@[simp] theorem State.setSp_soundGate (b : Byte) (s : State) : (s.setSp b).soundGate = s.soundGate := rfl
@[simp] theorem State.setSp_blank (b : Byte) (s : State) : (s.setSp b).blank = s.blank := rfl
@[simp] theorem State.setSp_config (b : Byte) (s : State) : (s.setSp b).config = s.config := rfl
@[simp] theorem State.setSp_calls (b : Byte) (s : State) : (s.setSp b).calls = s.calls := rfl
@[simp] theorem State.setSp_inputs (b : Byte) (s : State) : (s.setSp b).inputs = s.inputs := rfl
@[simp] theorem State.setSp_draws (b : Byte) (s : State) : (s.setSp b).draws = s.draws := rfl

/-! ### State.setDt -/

@[simp] theorem State.setDt_v (b : Byte) (s : State) : (s.setDt b).v = s.v := rfl
@[simp] theorem State.setDt_pc (b : Byte) (s : State) : (s.setDt b).pc = s.pc := rfl
@[simp] theorem State.setDt_index (b : Byte) (s : State) : (s.setDt b).index = s.index := rfl
@[simp] theorem State.setDt_sp (b : Byte) (s : State) : (s.setDt b).sp = s.sp := rfl
@[simp] theorem State.setDt_stack (b : Byte) (s : State) : (s.setDt b).stack = s.stack := rfl
@[simp] theorem State.setDt_dt (b : Byte) (s : State) : (s.setDt b).dt = b := rfl
@[simp] theorem State.setDt_st (b : Byte) (s : State) : (s.setDt b).st = s.st := rfl
@[simp] theorem State.setDt_pix (b : Byte) (s : State) : (s.setDt b).pix = s.pix := rfl
@[simp] theorem State.setDt_mem (b : Byte) (s : State) : (s.setDt b).mem = s.mem := rfl
@[simp] theorem State.setDt_phase (b : Byte) (s : State) : (s.setDt b).phase = s.phase := rfl
@[simp] theorem State.setDt_faultRecord (b : Byte) (s : State) : (s.setDt b).faultRecord = s.faultRecord := rfl
@[simp] theorem State.setDt_soundGate (b : Byte) (s : State) : (s.setDt b).soundGate = s.soundGate := rfl
@[simp] theorem State.setDt_blank (b : Byte) (s : State) : (s.setDt b).blank = s.blank := rfl
@[simp] theorem State.setDt_config (b : Byte) (s : State) : (s.setDt b).config = s.config := rfl
@[simp] theorem State.setDt_calls (b : Byte) (s : State) : (s.setDt b).calls = s.calls := rfl
@[simp] theorem State.setDt_inputs (b : Byte) (s : State) : (s.setDt b).inputs = s.inputs := rfl
@[simp] theorem State.setDt_draws (b : Byte) (s : State) : (s.setDt b).draws = s.draws := rfl

/-! ### State.setSt -/

@[simp] theorem State.setSt_v (b : Byte) (s : State) : (s.setSt b).v = s.v := rfl
@[simp] theorem State.setSt_pc (b : Byte) (s : State) : (s.setSt b).pc = s.pc := rfl
@[simp] theorem State.setSt_index (b : Byte) (s : State) : (s.setSt b).index = s.index := rfl
@[simp] theorem State.setSt_sp (b : Byte) (s : State) : (s.setSt b).sp = s.sp := rfl
@[simp] theorem State.setSt_stack (b : Byte) (s : State) : (s.setSt b).stack = s.stack := rfl
@[simp] theorem State.setSt_dt (b : Byte) (s : State) : (s.setSt b).dt = s.dt := rfl
@[simp] theorem State.setSt_st (b : Byte) (s : State) : (s.setSt b).st = b := rfl
@[simp] theorem State.setSt_pix (b : Byte) (s : State) : (s.setSt b).pix = s.pix := rfl
@[simp] theorem State.setSt_mem (b : Byte) (s : State) : (s.setSt b).mem = s.mem := rfl
@[simp] theorem State.setSt_phase (b : Byte) (s : State) : (s.setSt b).phase = s.phase := rfl
@[simp] theorem State.setSt_faultRecord (b : Byte) (s : State) : (s.setSt b).faultRecord = s.faultRecord := rfl
@[simp] theorem State.setSt_soundGate (b : Byte) (s : State) : (s.setSt b).soundGate = s.soundGate := rfl
@[simp] theorem State.setSt_blank (b : Byte) (s : State) : (s.setSt b).blank = s.blank := rfl
@[simp] theorem State.setSt_config (b : Byte) (s : State) : (s.setSt b).config = s.config := rfl
@[simp] theorem State.setSt_calls (b : Byte) (s : State) : (s.setSt b).calls = s.calls := rfl
@[simp] theorem State.setSt_inputs (b : Byte) (s : State) : (s.setSt b).inputs = s.inputs := rfl
@[simp] theorem State.setSt_draws (b : Byte) (s : State) : (s.setSt b).draws = s.draws := rfl

/-! ### State.setPix -/

@[simp] theorem State.setPix_v (p : PixelBuffer) (s : State) : (s.setPix p).v = s.v := rfl
@[simp] theorem State.setPix_pc (p : PixelBuffer) (s : State) : (s.setPix p).pc = s.pc := rfl
@[simp] theorem State.setPix_index (p : PixelBuffer) (s : State) : (s.setPix p).index = s.index := rfl
@[simp] theorem State.setPix_sp (p : PixelBuffer) (s : State) : (s.setPix p).sp = s.sp := rfl
@[simp] theorem State.setPix_stack (p : PixelBuffer) (s : State) : (s.setPix p).stack = s.stack := rfl
@[simp] theorem State.setPix_dt (p : PixelBuffer) (s : State) : (s.setPix p).dt = s.dt := rfl
@[simp] theorem State.setPix_st (p : PixelBuffer) (s : State) : (s.setPix p).st = s.st := rfl
@[simp] theorem State.setPix_pix (p : PixelBuffer) (s : State) : (s.setPix p).pix = p := rfl
@[simp] theorem State.setPix_mem (p : PixelBuffer) (s : State) : (s.setPix p).mem = s.mem := rfl
@[simp] theorem State.setPix_phase (p : PixelBuffer) (s : State) : (s.setPix p).phase = s.phase := rfl
@[simp] theorem State.setPix_faultRecord (p : PixelBuffer) (s : State) : (s.setPix p).faultRecord = s.faultRecord := rfl
@[simp] theorem State.setPix_soundGate (p : PixelBuffer) (s : State) : (s.setPix p).soundGate = s.soundGate := rfl
@[simp] theorem State.setPix_blank (p : PixelBuffer) (s : State) : (s.setPix p).blank = s.blank := rfl
@[simp] theorem State.setPix_config (p : PixelBuffer) (s : State) : (s.setPix p).config = s.config := rfl
@[simp] theorem State.setPix_calls (p : PixelBuffer) (s : State) : (s.setPix p).calls = s.calls := rfl
@[simp] theorem State.setPix_inputs (p : PixelBuffer) (s : State) : (s.setPix p).inputs = s.inputs := rfl
@[simp] theorem State.setPix_draws (p : PixelBuffer) (s : State) : (s.setPix p).draws = s.draws := rfl

/-! ### State.setPhase -/

@[simp] theorem State.setPhase_v (p : Phase) (s : State) : (s.setPhase p).v = s.v := rfl
@[simp] theorem State.setPhase_pc (p : Phase) (s : State) : (s.setPhase p).pc = s.pc := rfl
@[simp] theorem State.setPhase_index (p : Phase) (s : State) : (s.setPhase p).index = s.index := rfl
@[simp] theorem State.setPhase_sp (p : Phase) (s : State) : (s.setPhase p).sp = s.sp := rfl
@[simp] theorem State.setPhase_stack (p : Phase) (s : State) : (s.setPhase p).stack = s.stack := rfl
@[simp] theorem State.setPhase_dt (p : Phase) (s : State) : (s.setPhase p).dt = s.dt := rfl
@[simp] theorem State.setPhase_st (p : Phase) (s : State) : (s.setPhase p).st = s.st := rfl
@[simp] theorem State.setPhase_pix (p : Phase) (s : State) : (s.setPhase p).pix = s.pix := rfl
@[simp] theorem State.setPhase_mem (p : Phase) (s : State) : (s.setPhase p).mem = s.mem := rfl
@[simp] theorem State.setPhase_phase (p : Phase) (s : State) : (s.setPhase p).phase = p := rfl
@[simp] theorem State.setPhase_faultRecord (p : Phase) (s : State) : (s.setPhase p).faultRecord = s.faultRecord := rfl
@[simp] theorem State.setPhase_soundGate (p : Phase) (s : State) : (s.setPhase p).soundGate = s.soundGate := rfl
@[simp] theorem State.setPhase_blank (p : Phase) (s : State) : (s.setPhase p).blank = s.blank := rfl
@[simp] theorem State.setPhase_config (p : Phase) (s : State) : (s.setPhase p).config = s.config := rfl
@[simp] theorem State.setPhase_calls (p : Phase) (s : State) : (s.setPhase p).calls = s.calls := rfl
@[simp] theorem State.setPhase_inputs (p : Phase) (s : State) : (s.setPhase p).inputs = s.inputs := rfl
@[simp] theorem State.setPhase_draws (p : Phase) (s : State) : (s.setPhase p).draws = s.draws := rfl

/-! ### State.setCell -/

@[simp] theorem State.setCell_v (a : Nat) (b : Byte) (s : State) : (s.setCell a b).v = s.v := rfl
@[simp] theorem State.setCell_pc (a : Nat) (b : Byte) (s : State) : (s.setCell a b).pc = s.pc := rfl
@[simp] theorem State.setCell_index (a : Nat) (b : Byte) (s : State) : (s.setCell a b).index = s.index := rfl
@[simp] theorem State.setCell_sp (a : Nat) (b : Byte) (s : State) : (s.setCell a b).sp = s.sp := rfl
@[simp] theorem State.setCell_stack (a : Nat) (b : Byte) (s : State) : (s.setCell a b).stack = s.stack := rfl
@[simp] theorem State.setCell_dt (a : Nat) (b : Byte) (s : State) : (s.setCell a b).dt = s.dt := rfl
@[simp] theorem State.setCell_st (a : Nat) (b : Byte) (s : State) : (s.setCell a b).st = s.st := rfl
@[simp] theorem State.setCell_pix (a : Nat) (b : Byte) (s : State) : (s.setCell a b).pix = s.pix := rfl
@[simp] theorem State.setCell_mem (a : Nat) (b : Byte) (s : State) : (s.setCell a b).mem = s.mem.put s.config a b := rfl
@[simp] theorem State.setCell_phase (a : Nat) (b : Byte) (s : State) : (s.setCell a b).phase = s.phase := rfl
@[simp] theorem State.setCell_faultRecord (a : Nat) (b : Byte) (s : State) : (s.setCell a b).faultRecord = s.faultRecord := rfl
@[simp] theorem State.setCell_soundGate (a : Nat) (b : Byte) (s : State) : (s.setCell a b).soundGate = s.soundGate := rfl
@[simp] theorem State.setCell_blank (a : Nat) (b : Byte) (s : State) : (s.setCell a b).blank = s.blank := rfl
@[simp] theorem State.setCell_config (a : Nat) (b : Byte) (s : State) : (s.setCell a b).config = s.config := rfl
@[simp] theorem State.setCell_calls (a : Nat) (b : Byte) (s : State) : (s.setCell a b).calls = s.calls := rfl
@[simp] theorem State.setCell_inputs (a : Nat) (b : Byte) (s : State) : (s.setCell a b).inputs = s.inputs := rfl
@[simp] theorem State.setCell_draws (a : Nat) (b : Byte) (s : State) : (s.setCell a b).draws = s.draws := rfl

/-! ### State.enterFault -/

@[simp] theorem State.enterFault_v (at? : Option Word) (k : FaultKind) (s : State) : (s.enterFault at? k).v = s.v := rfl
@[simp] theorem State.enterFault_pc (at? : Option Word) (k : FaultKind) (s : State) : (s.enterFault at? k).pc = s.pc := rfl
@[simp] theorem State.enterFault_index (at? : Option Word) (k : FaultKind) (s : State) : (s.enterFault at? k).index = s.index := rfl
@[simp] theorem State.enterFault_sp (at? : Option Word) (k : FaultKind) (s : State) : (s.enterFault at? k).sp = s.sp := rfl
@[simp] theorem State.enterFault_stack (at? : Option Word) (k : FaultKind) (s : State) : (s.enterFault at? k).stack = s.stack := rfl
@[simp] theorem State.enterFault_dt (at? : Option Word) (k : FaultKind) (s : State) : (s.enterFault at? k).dt = s.dt := rfl
@[simp] theorem State.enterFault_st (at? : Option Word) (k : FaultKind) (s : State) : (s.enterFault at? k).st = s.st := rfl
@[simp] theorem State.enterFault_pix (at? : Option Word) (k : FaultKind) (s : State) : (s.enterFault at? k).pix = s.pix := rfl
@[simp] theorem State.enterFault_mem (at? : Option Word) (k : FaultKind) (s : State) : (s.enterFault at? k).mem = s.mem := rfl
@[simp] theorem State.enterFault_phase (at? : Option Word) (k : FaultKind) (s : State) : (s.enterFault at? k).phase = .faulted := rfl
@[simp] theorem State.enterFault_faultRecord (at? : Option Word) (k : FaultKind) (s : State) : (s.enterFault at? k).faultRecord = some ⟨k, at?⟩ := rfl
@[simp] theorem State.enterFault_soundGate (at? : Option Word) (k : FaultKind) (s : State) : (s.enterFault at? k).soundGate = s.soundGate := rfl
@[simp] theorem State.enterFault_blank (at? : Option Word) (k : FaultKind) (s : State) : (s.enterFault at? k).blank = s.blank := rfl
@[simp] theorem State.enterFault_config (at? : Option Word) (k : FaultKind) (s : State) : (s.enterFault at? k).config = s.config := rfl
@[simp] theorem State.enterFault_calls (at? : Option Word) (k : FaultKind) (s : State) : (s.enterFault at? k).calls = s.calls := rfl
@[simp] theorem State.enterFault_inputs (at? : Option Word) (k : FaultKind) (s : State) : (s.enterFault at? k).inputs = s.inputs := rfl
@[simp] theorem State.enterFault_draws (at? : Option Word) (k : FaultKind) (s : State) : (s.enterFault at? k).draws = s.draws := rfl

/-! ### State.issue -/

@[simp] theorem State.issue_v (call : CapCall) (s : State) : (s.issue call).v = s.v := rfl
@[simp] theorem State.issue_pc (call : CapCall) (s : State) : (s.issue call).pc = s.pc := rfl
@[simp] theorem State.issue_index (call : CapCall) (s : State) : (s.issue call).index = s.index := rfl
@[simp] theorem State.issue_sp (call : CapCall) (s : State) : (s.issue call).sp = s.sp := rfl
@[simp] theorem State.issue_stack (call : CapCall) (s : State) : (s.issue call).stack = s.stack := rfl
@[simp] theorem State.issue_dt (call : CapCall) (s : State) : (s.issue call).dt = s.dt := rfl
@[simp] theorem State.issue_st (call : CapCall) (s : State) : (s.issue call).st = s.st := rfl
@[simp] theorem State.issue_pix (call : CapCall) (s : State) : (s.issue call).pix = s.pix := rfl
@[simp] theorem State.issue_mem (call : CapCall) (s : State) : (s.issue call).mem = s.mem := rfl
@[simp] theorem State.issue_phase (call : CapCall) (s : State) : (s.issue call).phase = s.phase := rfl
@[simp] theorem State.issue_faultRecord (call : CapCall) (s : State) : (s.issue call).faultRecord = s.faultRecord := rfl
@[simp] theorem State.issue_soundGate (call : CapCall) (s : State) : (s.issue call).soundGate = s.soundGate := rfl
@[simp] theorem State.issue_blank (call : CapCall) (s : State) : (s.issue call).blank = s.blank := rfl
@[simp] theorem State.issue_config (call : CapCall) (s : State) : (s.issue call).config = s.config := rfl
@[simp] theorem State.issue_calls (call : CapCall) (s : State) : (s.issue call).calls = s.calls ++ [call] := rfl
@[simp] theorem State.issue_inputs (call : CapCall) (s : State) : (s.issue call).inputs = s.inputs := rfl
@[simp] theorem State.issue_draws (call : CapCall) (s : State) : (s.issue call).draws = s.draws := rfl

/-! ### State.clearCalls -/

@[simp] theorem State.clearCalls_v (s : State) : s.clearCalls.v = s.v := rfl
@[simp] theorem State.clearCalls_pc (s : State) : s.clearCalls.pc = s.pc := rfl
@[simp] theorem State.clearCalls_index (s : State) : s.clearCalls.index = s.index := rfl
@[simp] theorem State.clearCalls_sp (s : State) : s.clearCalls.sp = s.sp := rfl
@[simp] theorem State.clearCalls_stack (s : State) : s.clearCalls.stack = s.stack := rfl
@[simp] theorem State.clearCalls_dt (s : State) : s.clearCalls.dt = s.dt := rfl
@[simp] theorem State.clearCalls_st (s : State) : s.clearCalls.st = s.st := rfl
@[simp] theorem State.clearCalls_pix (s : State) : s.clearCalls.pix = s.pix := rfl
@[simp] theorem State.clearCalls_mem (s : State) : s.clearCalls.mem = s.mem := rfl
@[simp] theorem State.clearCalls_phase (s : State) : s.clearCalls.phase = s.phase := rfl
@[simp] theorem State.clearCalls_faultRecord (s : State) : s.clearCalls.faultRecord = s.faultRecord := rfl
@[simp] theorem State.clearCalls_soundGate (s : State) : s.clearCalls.soundGate = s.soundGate := rfl
@[simp] theorem State.clearCalls_blank (s : State) : s.clearCalls.blank = s.blank := rfl
@[simp] theorem State.clearCalls_config (s : State) : s.clearCalls.config = s.config := rfl
@[simp] theorem State.clearCalls_calls (s : State) : s.clearCalls.calls = [] := rfl
@[simp] theorem State.clearCalls_inputs (s : State) : s.clearCalls.inputs = s.inputs := rfl
@[simp] theorem State.clearCalls_draws (s : State) : s.clearCalls.draws = s.draws := rfl

/-! ### State.nextAnswers -/

@[simp] theorem State.nextAnswers_v (s : State) : s.nextAnswers.v = s.v := rfl
@[simp] theorem State.nextAnswers_pc (s : State) : s.nextAnswers.pc = s.pc := rfl
@[simp] theorem State.nextAnswers_index (s : State) : s.nextAnswers.index = s.index := rfl
@[simp] theorem State.nextAnswers_sp (s : State) : s.nextAnswers.sp = s.sp := rfl
@[simp] theorem State.nextAnswers_stack (s : State) : s.nextAnswers.stack = s.stack := rfl
@[simp] theorem State.nextAnswers_dt (s : State) : s.nextAnswers.dt = s.dt := rfl
@[simp] theorem State.nextAnswers_st (s : State) : s.nextAnswers.st = s.st := rfl
@[simp] theorem State.nextAnswers_pix (s : State) : s.nextAnswers.pix = s.pix := rfl
@[simp] theorem State.nextAnswers_mem (s : State) : s.nextAnswers.mem = s.mem := rfl
@[simp] theorem State.nextAnswers_phase (s : State) : s.nextAnswers.phase = s.phase := rfl
@[simp] theorem State.nextAnswers_faultRecord (s : State) : s.nextAnswers.faultRecord = s.faultRecord := rfl
@[simp] theorem State.nextAnswers_soundGate (s : State) : s.nextAnswers.soundGate = s.soundGate := rfl
@[simp] theorem State.nextAnswers_blank (s : State) : s.nextAnswers.blank = s.blank := rfl
@[simp] theorem State.nextAnswers_config (s : State) : s.nextAnswers.config = s.config := rfl
@[simp] theorem State.nextAnswers_calls (s : State) : s.nextAnswers.calls = s.calls := rfl
@[simp] theorem State.nextAnswers_inputs (s : State) : s.nextAnswers.inputs = s.inputs.tail := rfl
@[simp] theorem State.nextAnswers_draws (s : State) : s.nextAnswers.draws = s.draws + 1 := rfl

/-! ### State.advance -/

@[simp] theorem State.advance_v (s : State) : s.advance.v = s.v := rfl
@[simp] theorem State.advance_pc (s : State) : s.advance.pc = s.pc + instrWidth := rfl
@[simp] theorem State.advance_index (s : State) : s.advance.index = s.index := rfl
@[simp] theorem State.advance_sp (s : State) : s.advance.sp = s.sp := rfl
@[simp] theorem State.advance_stack (s : State) : s.advance.stack = s.stack := rfl
@[simp] theorem State.advance_dt (s : State) : s.advance.dt = s.dt := rfl
@[simp] theorem State.advance_st (s : State) : s.advance.st = s.st := rfl
@[simp] theorem State.advance_pix (s : State) : s.advance.pix = s.pix := rfl
@[simp] theorem State.advance_mem (s : State) : s.advance.mem = s.mem := rfl
@[simp] theorem State.advance_phase (s : State) : s.advance.phase = s.phase := rfl
@[simp] theorem State.advance_faultRecord (s : State) : s.advance.faultRecord = s.faultRecord := rfl
@[simp] theorem State.advance_soundGate (s : State) : s.advance.soundGate = s.soundGate := rfl
@[simp] theorem State.advance_blank (s : State) : s.advance.blank = s.blank := rfl
@[simp] theorem State.advance_config (s : State) : s.advance.config = s.config := rfl
@[simp] theorem State.advance_calls (s : State) : s.advance.calls = s.calls := rfl
@[simp] theorem State.advance_inputs (s : State) : s.advance.inputs = s.inputs := rfl
@[simp] theorem State.advance_draws (s : State) : s.advance.draws = s.draws := rfl

/-! ### State.presenting -/

@[simp] theorem State.presenting_v (answers : List Answers) (s : State) :
    (s.presenting answers).v = s.v := rfl
@[simp] theorem State.presenting_pc (answers : List Answers) (s : State) :
    (s.presenting answers).pc = s.pc := rfl
@[simp] theorem State.presenting_index (answers : List Answers) (s : State) :
    (s.presenting answers).index = s.index := rfl
@[simp] theorem State.presenting_sp (answers : List Answers) (s : State) :
    (s.presenting answers).sp = s.sp := rfl
@[simp] theorem State.presenting_stack (answers : List Answers) (s : State) :
    (s.presenting answers).stack = s.stack := rfl
@[simp] theorem State.presenting_dt (answers : List Answers) (s : State) :
    (s.presenting answers).dt = s.dt := rfl
@[simp] theorem State.presenting_st (answers : List Answers) (s : State) :
    (s.presenting answers).st = s.st := rfl
@[simp] theorem State.presenting_pix (answers : List Answers) (s : State) :
    (s.presenting answers).pix = s.pix := rfl
@[simp] theorem State.presenting_mem (answers : List Answers) (s : State) :
    (s.presenting answers).mem = s.mem := rfl
@[simp] theorem State.presenting_phase (answers : List Answers) (s : State) :
    (s.presenting answers).phase = s.phase := rfl
@[simp] theorem State.presenting_faultRecord (answers : List Answers) (s : State) :
    (s.presenting answers).faultRecord = s.faultRecord := rfl
@[simp] theorem State.presenting_soundGate (answers : List Answers) (s : State) :
    (s.presenting answers).soundGate = s.soundGate := rfl
@[simp] theorem State.presenting_blank (answers : List Answers) (s : State) :
    (s.presenting answers).blank = s.blank := rfl
@[simp] theorem State.presenting_config (answers : List Answers) (s : State) :
    (s.presenting answers).config = s.config := rfl
@[simp] theorem State.presenting_calls (answers : List Answers) (s : State) :
    (s.presenting answers).calls = s.calls := rfl
@[simp] theorem State.presenting_inputs (answers : List Answers) (s : State) :
    (s.presenting answers).inputs = answers := rfl
@[simp] theorem State.presenting_draws (answers : List Answers) (s : State) :
    (s.presenting answers).draws = s.draws := rfl

/-! ### State.setGate -/

@[simp] theorem State.setGate_v (g : SoundGate) (s : State) : (s.setGate g).v = s.v := rfl
@[simp] theorem State.setGate_pc (g : SoundGate) (s : State) : (s.setGate g).pc = s.pc := rfl
@[simp] theorem State.setGate_index (g : SoundGate) (s : State) : (s.setGate g).index = s.index := rfl
@[simp] theorem State.setGate_sp (g : SoundGate) (s : State) : (s.setGate g).sp = s.sp := rfl
@[simp] theorem State.setGate_stack (g : SoundGate) (s : State) : (s.setGate g).stack = s.stack := rfl
@[simp] theorem State.setGate_dt (g : SoundGate) (s : State) : (s.setGate g).dt = s.dt := rfl
@[simp] theorem State.setGate_st (g : SoundGate) (s : State) : (s.setGate g).st = s.st := rfl
@[simp] theorem State.setGate_pix (g : SoundGate) (s : State) : (s.setGate g).pix = s.pix := rfl
@[simp] theorem State.setGate_mem (g : SoundGate) (s : State) : (s.setGate g).mem = s.mem := rfl
@[simp] theorem State.setGate_phase (g : SoundGate) (s : State) : (s.setGate g).phase = s.phase := rfl
@[simp] theorem State.setGate_faultRecord (g : SoundGate) (s : State) : (s.setGate g).faultRecord = s.faultRecord := rfl
@[simp] theorem State.setGate_soundGate (g : SoundGate) (s : State) : (s.setGate g).soundGate = g := rfl
@[simp] theorem State.setGate_blank (g : SoundGate) (s : State) : (s.setGate g).blank = s.blank := rfl
@[simp] theorem State.setGate_config (g : SoundGate) (s : State) : (s.setGate g).config = s.config := rfl
@[simp] theorem State.setGate_calls (g : SoundGate) (s : State) : (s.setGate g).calls = s.calls := rfl
@[simp] theorem State.setGate_inputs (g : SoundGate) (s : State) : (s.setGate g).inputs = s.inputs := rfl
@[simp] theorem State.setGate_draws (g : SoundGate) (s : State) : (s.setGate g).draws = s.draws := rfl

/-! ### State.decrementTimers -/

@[simp] theorem State.decrementTimers_v (s : State) : s.decrementTimers.v = s.v := rfl
@[simp] theorem State.decrementTimers_pc (s : State) : s.decrementTimers.pc = s.pc := rfl
@[simp] theorem State.decrementTimers_index (s : State) : s.decrementTimers.index = s.index := rfl
@[simp] theorem State.decrementTimers_sp (s : State) : s.decrementTimers.sp = s.sp := rfl
@[simp] theorem State.decrementTimers_stack (s : State) : s.decrementTimers.stack = s.stack := rfl
@[simp] theorem State.decrementTimers_dt (s : State) : s.decrementTimers.dt = countDown s.dt := rfl
@[simp] theorem State.decrementTimers_st (s : State) : s.decrementTimers.st = countDown s.st := rfl
@[simp] theorem State.decrementTimers_pix (s : State) : s.decrementTimers.pix = s.pix := rfl
@[simp] theorem State.decrementTimers_mem (s : State) : s.decrementTimers.mem = s.mem := rfl
@[simp] theorem State.decrementTimers_phase (s : State) : s.decrementTimers.phase = s.phase := rfl
@[simp] theorem State.decrementTimers_faultRecord (s : State) : s.decrementTimers.faultRecord = s.faultRecord := rfl
@[simp] theorem State.decrementTimers_soundGate (s : State) : s.decrementTimers.soundGate = s.soundGate := rfl
@[simp] theorem State.decrementTimers_blank (s : State) : s.decrementTimers.blank = s.blank := rfl
@[simp] theorem State.decrementTimers_config (s : State) : s.decrementTimers.config = s.config := rfl
@[simp] theorem State.decrementTimers_calls (s : State) : s.decrementTimers.calls = s.calls := rfl
@[simp] theorem State.decrementTimers_inputs (s : State) : s.decrementTimers.inputs = s.inputs := rfl
@[simp] theorem State.decrementTimers_draws (s : State) : s.decrementTimers.draws = s.draws := rfl

end Sys2Proof.Machine
end

