-- ==== Sys2Proof/Laws/Decode.lean ====
section
/-!
SUPPORT. The fields of a packed word, format by format (30_encoding.md R82), and the two bytes of a word.
-/

namespace Sys2Proof

@[simp] theorem wordOfBytes_high_low (w : Word) : wordOfBytes (highByte w) (lowByte w) = w := by
  simp only [wordOfBytes, highByte, lowByte]
  ext k hk
  simp only [BitVec.getElem_append, BitVec.getElem_extractLsb']
  split
  · simp [BitVec.getLsbD_eq_getElem hk]
  · have : 8 + (k - 8) = k := by omega
    simp [this, BitVec.getLsbD_eq_getElem hk]

theorem topNibble_eq (w : Word) : topNibble w = w.toNat / 0x1000 := by
  have := w.isLt
  simp [topNibble, BitVec.extractLsb'_toNat, Nat.shiftRight_eq_div_pow]; omega

theorem fieldX_val (w : Word) : (fieldX w).val = w.toNat / 0x100 % 0x10 := by
  simp [fieldX, BitVec.extractLsb'_toNat, Nat.shiftRight_eq_div_pow]

theorem fieldY_val (w : Word) : (fieldY w).val = w.toNat / 0x10 % 0x10 := by
  simp [fieldY, BitVec.extractLsb'_toNat, Nat.shiftRight_eq_div_pow]

theorem fieldN_val (w : Word) : (fieldN w).val = w.toNat % 0x10 := by
  simp [fieldN, BitVec.extractLsb'_toNat]

theorem fieldKK_toNat (w : Word) : (fieldKK w).toNat = w.toNat % 0x100 := by
  simp [fieldKK, BitVec.extractLsb'_toNat]

theorem fieldNNN_toNat (w : Word) : (fieldNNN w).toNat = w.toNat % 0x1000 := by
  simp [fieldNNN, BitVec.extractLsb'_toNat]

theorem packNNN_toNat (op : BitVec 4) (nnn : Addr12) : (packNNN op nnn).toNat = op.toNat * 0x1000 + nnn.toNat := by
  have := nnn.isLt
  simp only [packNNN, BitVec.toNat_append, Nat.shiftLeft_eq]
  rw [← Nat.shiftLeft_eq, ← Nat.shiftLeft_add_eq_or_of_lt this, Nat.shiftLeft_eq]

theorem packXKK_toNat (op : BitVec 4) (x : Reg) (kk : Byte) :
    (packXKK op x kk).toNat = op.toNat * 0x1000 + x.val * 0x100 + kk.toNat := by
  have h1 := kk.isLt
  have h2 : (BitVec.ofFin (w := 4) x ++ kk : BitVec 12).toNat = x.val * 0x100 + kk.toNat := by
    rw [BitVec.toNat_append, ← Nat.shiftLeft_add_eq_or_of_lt h1, Nat.shiftLeft_eq]; rfl
  have h3 : (BitVec.ofFin (w := 4) x ++ kk : BitVec 12).toNat < 2 ^ 12 := BitVec.isLt _
  rw [packXKK, BitVec.toNat_append, ← Nat.shiftLeft_add_eq_or_of_lt h3, Nat.shiftLeft_eq, h2]; omega

theorem packXYN_toNat (op : BitVec 4) (x y : Reg) (n : Count) :
    (packXYN op x y n).toNat = op.toNat * 0x1000 + x.val * 0x100 + y.val * 0x10 + n.val := by
  have : packXYN op x y n = packXKK op x (BitVec.ofFin (w := 4) y ++ BitVec.ofFin (w := 4) n : BitVec 8) := rfl
  have h1 : (BitVec.ofFin (w := 4) n).toNat < 2 ^ 4 := BitVec.isLt _
  rw [this, packXKK_toNat, BitVec.toNat_append, ← Nat.shiftLeft_add_eq_or_of_lt h1, Nat.shiftLeft_eq]
  show _ = op.toNat * 0x1000 + x.val * 0x100 + y.val * 0x10 + n.val
  simp only [BitVec.toNat_ofFin]; omega

/-! ## The fields of a packed word -/

@[simp] theorem topNibble_packNNN (op : BitVec 4) (nnn : Addr12) : topNibble (packNNN op nnn) = op.toNat := by
  have := nnn.isLt; rw [topNibble_eq, packNNN_toNat]; omega
@[simp] theorem fieldNNN_packNNN (op : BitVec 4) (nnn : Addr12) : fieldNNN (packNNN op nnn) = nnn := by
  have := nnn.isLt; apply BitVec.eq_of_toNat_eq; rw [fieldNNN_toNat, packNNN_toNat]; omega
@[simp] theorem topNibble_packXKK (op : BitVec 4) (x : Reg) (kk : Byte) : topNibble (packXKK op x kk) = op.toNat := by
  have := kk.isLt; have := x.isLt; rw [topNibble_eq, packXKK_toNat]; omega
@[simp] theorem fieldX_packXKK (op : BitVec 4) (x : Reg) (kk : Byte) : fieldX (packXKK op x kk) = x := by
  have := kk.isLt; have := x.isLt; apply Fin.ext; rw [fieldX_val, packXKK_toNat]; omega
@[simp] theorem fieldKK_packXKK (op : BitVec 4) (x : Reg) (kk : Byte) : fieldKK (packXKK op x kk) = kk := by
  have := kk.isLt; apply BitVec.eq_of_toNat_eq; rw [fieldKK_toNat, packXKK_toNat]; omega
@[simp] theorem topNibble_packXYN (op : BitVec 4) (x y : Reg) (n : Count) :
    topNibble (packXYN op x y n) = op.toNat := by
  have := n.isLt; have := x.isLt; have := y.isLt; rw [topNibble_eq, packXYN_toNat]; omega
@[simp] theorem fieldX_packXYN (op : BitVec 4) (x y : Reg) (n : Count) : fieldX (packXYN op x y n) = x := by
  have := n.isLt; have := x.isLt; have := y.isLt; apply Fin.ext; rw [fieldX_val, packXYN_toNat]; omega
@[simp] theorem fieldY_packXYN (op : BitVec 4) (x y : Reg) (n : Count) : fieldY (packXYN op x y n) = y := by
  have := n.isLt; have := y.isLt; apply Fin.ext; rw [fieldY_val, packXYN_toNat]; omega
@[simp] theorem fieldN_packXYN (op : BitVec 4) (x y : Reg) (n : Count) : fieldN (packXYN op x y n) = n := by
  have := n.isLt; apply Fin.ext; rw [fieldN_val, packXYN_toNat]; omega

end Sys2Proof
end

