-- ==== Sys2Proof/Laws/Memory.lean ====
section
/-!
SUPPORT. What the memory operations do: one read-after-write law, and the canonical form kept by each of them.
-/

namespace Sys2Proof.Machine

@[simp] theorem Memory.lookup_nil (a : Nat) : Memory.lookup [] a = none := rfl

theorem Memory.lookup_cons (b a : Nat) (v : Byte) (m : Memory) :
    Memory.lookup ((b, v) :: m) a = if b = a then some v else Memory.lookup m a := rfl

theorem Memory.lookup_insert (a b : Nat) (v : Byte) (m : Memory) :
    (Memory.insert a v m).lookup b = if b = a then some v else m.lookup b := by
  induction m with
  | nil => simp [Memory.insert, Memory.lookup_cons, eq_comm]
  | cons e m ih =>
    obtain ⟨c, w⟩ := e
    simp only [Memory.insert]
    split
    · simp [Memory.lookup_cons, eq_comm]
    · split
      · subst_vars; simp only [Memory.lookup_cons]; split <;> simp_all [eq_comm]
      · simp only [Memory.lookup_cons, ih]
        by_cases hc : c = b
        · subst hc; rw [if_pos rfl, if_neg (by omega), if_pos rfl]
        · simp [hc]

theorem Memory.lookup_erase (a b : Nat) (m : Memory) :
    (m.erase a).lookup b = if b = a then none else m.lookup b := by
  induction m with
  | nil => simp [Memory.erase]
  | cons e m ih =>
    obtain ⟨c, w⟩ := e
    simp only [Memory.erase, List.filter_cons, Memory.lookup_cons] at ih ⊢
    by_cases hc : c = a
    · subst hc; simp only [ne_eq, not_true_eq_false, decide_false, Bool.false_eq_true, ↓reduceIte, ih]
      split <;> simp_all [eq_comm]
    · simp only [ne_eq, hc, not_false_eq_true, decide_true, ↓reduceIte, Memory.lookup_cons, ih]
      split <;> simp_all

/-- A read after a write: the value written at its own address, the old content anywhere else. -/
theorem Memory.get_put (c : Config) (a b : Nat) (v : Byte) (m : Memory) :
    (m.put c a v).get c b = if b = a then some v else m.get c b := by
  by_cases h : unlisted c a = some v
  · simp only [Memory.put, h, ↓reduceIte, Memory.get, Memory.lookup_erase]
    by_cases hb : b = a
    · subst hb; simp [h]
    · simp [hb]
  · simp only [Memory.put, h, ↓reduceIte, Memory.get, Memory.lookup_insert]
    by_cases hb : b = a <;> simp [hb]

theorem Memory.mem_insert {a : Nat} {v : Byte} {m : Memory} {e : Host.Cell}
    (h : e ∈ Memory.insert a v m) : e = (a, v) ∨ e ∈ m := by
  induction m with
  | nil => simpa [Memory.insert] using h
  | cons f m ih =>
    obtain ⟨c, w⟩ := f
    simp only [Memory.insert] at h
    split at h
    · simpa using h
    · split at h
      · rcases List.mem_cons.1 h with h | h <;> simp_all
      · rcases List.mem_cons.1 h with h | h
        · simp_all
        · rcases ih h with h | h <;> simp_all

theorem Memory.pairwise_insert {a : Nat} {v : Byte} {m : Memory} (h : m.Pairwise (·.1 < ·.1)) :
    (Memory.insert a v m).Pairwise (·.1 < ·.1) := by
  induction m with
  | nil => simp [Memory.insert]
  | cons f m ih =>
    obtain ⟨c, w⟩ := f
    obtain ⟨hc, hm⟩ := List.pairwise_cons.1 h
    simp only [Memory.insert]
    split
    · refine List.pairwise_cons.2 ⟨fun e he => ?_, h⟩
      rcases List.mem_cons.1 he with he | he
      · subst he; assumption
      · exact lt_trans ‹a < c› (hc e he)
    · split
      · subst_vars; exact List.pairwise_cons.2 ⟨hc, hm⟩
      · refine List.pairwise_cons.2 ⟨fun e he => ?_, ih hm⟩
        rcases Memory.mem_insert he with he | he
        · subst he; simp only; omega
        · exact hc e he

@[simp] theorem Memory.wf_nil (c : Config) : Memory.wf c [] := by simp [Memory.wf]

/-- A store inside the address space keeps the canonical form. -/
theorem Memory.wf_put {c : Config} {a : Nat} {v : Byte} {m : Memory} (h : m.wf c) (ha : a < memSize) :
    (m.put c a v).wf c := by
  obtain ⟨hs, hm⟩ := h
  simp only [Memory.put]
  split
  · exact ⟨hs.filter _, fun e he => hm e (List.mem_filter.1 he).1⟩
  · refine ⟨Memory.pairwise_insert hs, fun e he => ?_⟩
    rcases Memory.mem_insert he with he | he
    · subst he; exact ⟨ha, by assumption⟩
    · exact hm e he

theorem Memory.mem_put {c : Config} {a : Nat} {v : Byte} {m : Memory} {e : Host.Cell}
    (h : e ∈ m.put c a v) : e.1 = a ∨ e ∈ m := by
  simp only [Memory.put] at h
  split at h
  · exact .inr (List.mem_filter.1 h).1
  · rcases Memory.mem_insert h with h | h
    · exact .inl (by simp [h])
    · exact .inr h

/-! ## The same of the state's cells -/

theorem State.cell_eq (s : State) (a : Nat) : s.cell a = s.mem.get s.config a := rfl

theorem State.cell_setCell (a b : Nat) (v : Byte) (s : State) :
    (s.setCell a v).cell b = if b = a then some v else s.cell b :=
  Memory.get_put ..

/-- A cell depends on the memory and the parameters alone. -/
theorem State.cell_congr {s t : State} (hm : t.mem = s.mem) (hc : t.config = s.config) (a : Nat) :
    t.cell a = s.cell a := by
  simp [State.cell, hm, hc]

/-- Consecutive stores, read back: the value of its place inside the block, the old content outside. -/
theorem State.cell_setCells (a b : Nat) (bytes : List Byte) (s : State) :
    (s.setCells a bytes).cell b =
      if h : a ≤ b ∧ b < a + bytes.length then some bytes[b - a] else s.cell b := by
  induction bytes generalizing a s with
  | nil => simp only [State.setCells, List.length_nil, Nat.add_zero]; rw [dif_neg (by omega)]
  | cons x xs ih =>
    simp only [State.setCells, ih, State.cell_setCell, List.length_cons]
    by_cases h1 : a + 1 ≤ b ∧ b < a + 1 + xs.length
    · rw [dif_pos h1, dif_pos (by omega)]
      obtain ⟨k, rfl⟩ : ∃ k, b = a + 1 + k := ⟨b - (a + 1), by omega⟩
      have e1 : a + 1 + k - (a + 1) = k := by omega
      have e2 : a + 1 + k - a = k + 1 := by omega
      simp only [e1, e2, List.getElem_cons_succ]
    · rw [dif_neg h1]
      by_cases h2 : b = a
      · subst h2; rw [if_pos rfl, dif_pos (by omega)]; simp
      · rw [if_neg h2, dif_neg (by omega)]

/-- The cells just stored. -/
theorem State.cell_setCells_inside {a k : Nat} {bytes : List Byte} {s : State} (h : k < bytes.length) :
    (s.setCells a bytes).cell (a + k) = some bytes[k] := by
  rw [State.cell_setCells, dif_pos (by omega)]; simp

/-- Stores change nothing but the memory. -/
theorem State.setCells_frame (a : Nat) (bytes : List Byte) (s : State) :
    s.setCells a bytes = { s with mem := (s.setCells a bytes).mem } := by
  induction bytes generalizing a s with
  | nil => rfl
  | cons x xs ih => simp only [State.setCells]; rw [ih]; rfl

/-- A block of stores inside the address space keeps the canonical form. -/
theorem State.wf_setCells {a : Nat} {bytes : List Byte} {s : State} (h : s.mem.wf s.config)
    (hb : a + bytes.length ≤ memSize) : (s.setCells a bytes).mem.wf s.config := by
  induction bytes generalizing a s with
  | nil => exact h
  | cons x xs ih =>
    simp only [List.length_cons] at hb
    simp only [State.setCells]
    exact ih (s := s.setCell a x) (Memory.wf_put h (by omega)) (by omega)

/-- A block of stores lists no cell below its start that was not listed before. -/
theorem State.mem_setCells {a : Nat} {bytes : List Byte} {s : State} {e : Host.Cell}
    (h : e ∈ (s.setCells a bytes).mem) : a ≤ e.1 ∨ e ∈ s.mem := by
  induction bytes generalizing a s with
  | nil => exact .inr h
  | cons x xs ih =>
    rcases ih (s := s.setCell a x) h with h | h
    · exact .inl (by omega)
    · rcases Memory.mem_put h with h | h
      · exact .inl (by omega)
      · exact .inr h

end Sys2Proof.Machine
end

