-- ==== Sys2Proof/Laws/Ops.lean ====
section
/-!
SUPPORT. One specification lemma per shared operation: what it answers, so that no proof about a meaning unfolds it.
-/

namespace Sys2Proof.Machine

/-! ## Predicates on results

`Ensures P r` says that `P` holds of the next state, if `r` answers one. It passes through every operation that takes a
continuation, so a claim about all next states of a meaning is proved along the meaning's own text. -/

/-- `P` holds of whatever next state `r` answers. -/
def Ensures (P : State → Prop) (r : Result) : Prop := ∀ t, r = .next t → P t

theorem Ensures.next {P : State → Prop} {s : State} (h : P s) : Ensures P (.next s) := by
  rintro t ⟨⟩; exact h

theorem Ensures.fault {P : State → Prop} {f : Fault} : Ensures P (.fault f) := by rintro t ⟨⟩

theorem Ensures.refused {P : State → Prop} {f : Refusal} : Ensures P (.refused f) := by rintro t ⟨⟩

theorem Ensures.onNext {P : State → Prop} {f : State → State} {r : Result} (h : Ensures (fun t => P (f t)) r) :
    Ensures P (onNext f r) := by
  cases r with
  | next s => rintro t ⟨⟩; exact h s rfl
  | fault _ => exact Ensures.fault
  | refused _ => exact Ensures.refused

theorem Ensures.raise {P : State → Prop} {at? : Option Word} {k : FaultKind} {s : State}
    (h : P (s.enterFault at? k)) : Ensures P (raise at? k s) := Ensures.next h

theorem Ensures.raiseHere {P : State → Prop} {k : FaultKind} {s : State}
    (h : P (s.enterFault (some s.instrAddr) k)) : Ensures P (raiseHere k s) := Ensures.next h

theorem Ensures.mono {P Q : State → Prop} {r : Result} (h : Ensures P r) (hpq : ∀ t, P t → Q t) : Ensures Q r :=
  fun t ht => hpq t (h t ht)

/-! ## Items that hold a value -/

@[simp] theorem mem_fill {it jt : Item} {blank : List Item} : jt ∈ fill it blank ↔ jt ∈ blank ∧ jt ≠ it := by
  simp [fill]

@[simp] theorem fill_nil (it : Item) : fill it [] = [] := rfl

theorem readItem_held {α : Type} {it : Item} {s : State} (h : it ∉ s.blank) (v : α) (k : α → Result) :
    readItem it v s k = k v := by simp [readItem, h]

theorem readItem_blank {α : Type} {it : Item} {s : State} (h : it ∈ s.blank) (v : α) (k : α → Result) :
    readItem it v s k = raiseHere (.unwritten it) s := by simp [readItem, h]

theorem readV_held {x : Reg} {s : State} (h : Item.v x ∉ s.blank) (k : Byte → Result) :
    readV x s k = k s.v[x] := readItem_held h ..

theorem readIndex_held {s : State} (h : Item.index ∉ s.blank) (k : Word → Result) :
    readIndex s k = k s.index := readItem_held h ..

theorem Ensures.readItem {α : Type} {P : State → Prop} {it : Item} {v : α} {s : State} {k : α → Result}
    (hf : P (s.enterFault (some s.instrAddr) (.unwritten it))) (hk : it ∉ s.blank → Ensures P (k v)) :
    Ensures P (readItem it v s k) := by
  unfold Machine.readItem
  split
  · exact Ensures.raiseHere hf
  · exact hk ‹_›

theorem Ensures.readV {P : State → Prop} {x : Reg} {s : State} {k : Byte → Result}
    (hf : P (s.enterFault (some s.instrAddr) (.unwritten (.v x))))
    (hk : Item.v x ∉ s.blank → Ensures P (k s.v[x])) : Ensures P (readV x s k) := Ensures.readItem hf hk

theorem Ensures.readIndex {P : State → Prop} {s : State} {k : Word → Result}
    (hf : P (s.enterFault (some s.instrAddr) (.unwritten .index)))
    (hk : Item.index ∉ s.blank → Ensures P (k s.index)) : Ensures P (readIndex s k) := Ensures.readItem hf hk

/-! ## Registers read and written in blocks -/

/-- All registers of a list hold a value: their values in the order of the list. -/
theorem readRegs_held {xs : List Reg} {s : State} (h : ∀ x ∈ xs, Item.v x ∉ s.blank) (k : List Byte → Result) :
    readRegs xs s k = k (xs.map fun x => s.v[x]) := by
  induction xs generalizing k with
  | nil => rfl
  | cons x xs ih =>
    simp only [readRegs, readV_held (h x (by simp)), ih (fun y hy => h y (by simp [hy])), List.map_cons]

/-- The first register of a list that holds no value is the one F_UNWRITTEN names. -/
theorem readRegs_blank {xs ys : List Reg} {x : Reg} {s : State} (hx : ∀ y ∈ xs, Item.v y ∉ s.blank)
    (h : Item.v x ∈ s.blank) (k : List Byte → Result) :
    readRegs (xs ++ x :: ys) s k = raiseHere (.unwritten (.v x)) s := by
  induction xs generalizing k with
  | nil => simp only [List.nil_append, readRegs]; exact readItem_blank h ..
  | cons y xs ih =>
    simp only [List.cons_append, readRegs, readV_held (hx y (by simp)), ih (fun z hz => hx z (by simp [hz]))]

theorem Ensures.readRegs {P : State → Prop} {xs : List Reg} {s : State} {k : List Byte → Result}
    (hf : ∀ x, P (s.enterFault (some s.instrAddr) (.unwritten (.v x))))
    (hk : (∀ x ∈ xs, Item.v x ∉ s.blank) → Ensures P (k (xs.map fun x => s.v[x]))) : Ensures P (readRegs xs s k) := by
  induction xs generalizing k with
  | nil => exact hk (by simp)
  | cons x xs ih =>
    refine Ensures.readV (hf x) fun hx => ih fun hxs => ?_
    exact hk (by rintro y hy; rcases List.mem_cons.1 hy with rfl | hy; exacts [hx, hxs y hy])

@[simp] theorem length_regsUpTo (x : Reg) : (regsUpTo x).length = x.val + 1 := by
  simp [regsUpTo]

theorem mem_regsUpTo {x r : Reg} : r ∈ regsUpTo x ↔ r ≤ x := by
  revert x r; decide

theorem getElem_regsUpTo {x : Reg} {k : Nat} (h : k < (regsUpTo x).length) :
    (regsUpTo x)[k] = ⟨k, by rw [length_regsUpTo] at h; omega⟩ := by
  simp [regsUpTo]

theorem nodup_regsUpTo (x : Reg) : (regsUpTo x).Nodup := by revert x; decide

/-- A register in a block, after the lower ones and before the higher ones. -/
theorem regsUpTo_split {x r : Reg} (h : r ≤ x) :
    regsUpTo x = (regsUpTo x).take r.val ++ r :: (regsUpTo x).drop (r.val + 1) ∧
      ∀ q ∈ (regsUpTo x).take r.val, q < r := by
  revert x r; decide

/-- Writing a block of registers changes them and marks them written; nothing else. -/
theorem State.setRegs_frame (xs : List Reg) (bs : List Byte) (s : State) :
    s.setRegs xs bs = { s with v := (s.setRegs xs bs).v, blank := (s.setRegs xs bs).blank } := by
  induction xs generalizing bs s with
  | nil => cases bs <;> rfl
  | cons x xs ih =>
    cases bs with
    | nil => rfl
    | cons b bs => simp only [State.setRegs]; rw [ih]; rfl

theorem State.setRegs_other {xs : List Reg} {r : Reg} (h : r ∉ xs) (bs : List Byte) (s : State) :
    (s.setRegs xs bs).v[r] = s.v[r] ∧ (Item.v r ∈ (s.setRegs xs bs).blank ↔ Item.v r ∈ s.blank) := by
  induction xs generalizing bs s with
  | nil => cases bs <;> exact ⟨rfl, Iff.rfl⟩
  | cons x xs ih =>
    cases bs with
    | nil => exact ⟨rfl, Iff.rfl⟩
    | cons b bs =>
      simp only [List.mem_cons, not_or] at h
      simp only [State.setRegs]
      have := ih h.2 bs (s.setV x b)
      have hx : (x : Nat) ≠ r := fun e => h.1 (Fin.ext e.symm)
      simp only [State.setV_v, State.setV_blank, mem_fill] at this
      refine ⟨this.1.trans ?_, this.2.trans ?_⟩
      · simp [hx]
      · simp [h.1]

theorem State.setRegs_written {xs : List Reg} {bs : List Byte} (hx : xs.Nodup) (hl : xs.length = bs.length)
    (s : State) (k : Nat) (h : k < xs.length) :
    (s.setRegs xs bs).v[xs[k]] = bs[k] ∧ Item.v xs[k] ∉ (s.setRegs xs bs).blank := by
  induction xs generalizing bs s k with
  | nil => simp at h
  | cons x xs ih =>
    cases bs with
    | nil => simp at hl
    | cons b bs =>
      obtain ⟨hx, hn⟩ := List.nodup_cons.1 hx
      cases k with
      | zero =>
        have := State.setRegs_other hx bs (s.setV x b)
        simp only [State.setRegs, List.getElem_cons_zero]
        exact ⟨this.1.trans (by simp), fun hb => by simpa using this.2.1 hb⟩
      | succ k => exact ih hn (by simpa using hl) (s.setV x b) k (by simpa using h)

/-! ## Address checks -/

@[simp] theorem length_cellsFrom (w : Word) (n : Nat) : (cellsFrom w n).length = n := by simp [cellsFrom]

theorem mem_cellsFrom {w : Word} {n a : Nat} : a ∈ cellsFrom w n ↔ w.toNat ≤ a ∧ a < w.toNat + n := by
  simp only [cellsFrom, List.mem_map, List.mem_range]
  constructor
  · rintro ⟨k, hk, rfl⟩; omega
  · rintro ⟨h1, h2⟩; exact ⟨a - w.toNat, by omega, by omega⟩

/-- Every address passes. -/
theorem checkAll_pass {check : Nat → Option FaultKind} {addrs : List Nat} (h : ∀ a ∈ addrs, check a = none)
    (s : State) (k : Result) : checkAll check addrs s k = k := by
  simp [checkAll, List.findSome?_eq_none_iff.2 h]

/-- The lowest address that fails is the one the fault names. -/
theorem checkAll_fail {check : Nat → Option FaultKind} {w : Word} {n j : Nat} {f : FaultKind} (hj : j < n)
    (hf : check (w.toNat + j) = some f) (hlow : ∀ k < j, check (w.toNat + k) = none) (s : State) (k : Result) :
    checkAll check (cellsFrom w n) s k = raiseHere f s := by
  have : (cellsFrom w n).findSome? check = some f := by
    obtain ⟨m, rfl⟩ : ∃ m, n = j + (m + 1) := ⟨n - j - 1, by omega⟩
    rw [cellsFrom, List.range_add, List.map_append, List.findSome?_append, List.findSome?_eq_none_iff.2]
    · simp [List.range_succ_eq_map, hf]
    · simp only [List.mem_map, List.mem_range]; rintro a ⟨k, hk, rfl⟩; exact hlow k hk
  simp [checkAll, this]

theorem Ensures.checkAll {P : State → Prop} {check : Nat → Option FaultKind} {addrs : List Nat} {s : State}
    {k : Result} (hf : ∀ f, P (s.enterFault (some s.instrAddr) f))
    (hk : (∀ a ∈ addrs, check a = none) → Ensures P k) : Ensures P (checkAll check addrs s k) := by
  unfold Machine.checkAll
  split
  · exact Ensures.raiseHere (hf _)
  · exact hk (List.findSome?_eq_none_iff.1 ‹_›)

theorem readFault_none {a : Nat} : readFault a = none ↔ a < memSize := by
  simp [readFault]

theorem writeFault_none {c : Config} {a : Nat} :
    writeFault c a = none ↔ a < memSize ∧ (glyphBytes ≤ a ∨ c.glyphWritePolicy = .write) := by
  unfold writeFault
  split
  · simp; omega
  · split <;> cases h : c.glyphWritePolicy <;> simp_all

/-! ## Reading cells -/

/-- Cells that hold values: those values, in order. -/
theorem readCells_held {as : List Nat} {s : State} {bs : List Byte} (h : as.map s.cell = bs.map some)
    (k : List Byte → Result) : readCells as s k = k bs := by
  induction as generalizing bs k with
  | nil => cases bs with
    | nil => rfl
    | cons _ _ => simp at h
  | cons a as ih =>
    cases bs with
    | nil => simp at h
    | cons b bs =>
      simp only [List.map_cons, List.cons.injEq] at h
      simp only [readCells, readCell, h.1, ih h.2]

/-- The first cell that holds no value is the one F_UNWRITTEN names. -/
theorem readCells_blank {as bs : List Nat} {a : Nat} {s : State} (has : ∀ b ∈ as, s.cell b ≠ none)
    (h : s.cell a = none) (k : List Byte → Result) :
    readCells (as ++ a :: bs) s k = raiseHere (.unwritten (.cell a)) s := by
  induction as generalizing k with
  | nil => simp [readCells, readCell, h, raiseHere]
  | cons b as ih =>
    obtain ⟨v, hv⟩ := Option.ne_none_iff_exists'.1 (has b (by simp))
    simp only [List.cons_append, readCells, readCell, hv, ih fun c hc => has c (by simp [hc])]

theorem Ensures.readCells {P : State → Prop} {as : List Nat} {s : State} {k : List Byte → Result}
    (hf : ∀ a, P (s.enterFault (some s.instrAddr) (.unwritten (.cell a))))
    (hk : ∀ bs, as.map s.cell = bs.map some → Ensures P (k bs)) : Ensures P (readCells as s k) := by
  induction as generalizing k with
  | nil => exact hk [] rfl
  | cons a as ih =>
    unfold Machine.readCells Machine.readCell
    split
    · exact ih fun bs hbs => hk _ (by simp_all)
    · exact Ensures.raise (hf a)

/-- Cells given one by one, as a list. -/
theorem cellsFrom_map {s : State} {n : Nat} {bs : List Byte} (hl : bs.length = n)
    (h : ∀ k (hk : k < bs.length), s.cell (s.index.toNat + k) = some bs[k]) :
    (cellsFrom s.index n).map s.cell = bs.map some := by
  apply List.ext_getElem
  · simp [hl]
  · intro k _ h2
    simp only [List.length_map] at h2
    simp [cellsFrom, h k h2]

/-- A block of cells read from `I` on, or the fault it raises. -/
theorem Ensures.readBlock {P : State → Prop} {n : Nat} {s : State} {k : List Byte → Result}
    (hf : ∀ f, P (s.enterFault (some s.instrAddr) f))
    (hk : ∀ bs, bs.length = n → (n ≠ 0 → Item.index ∉ s.blank) → (∀ a ∈ cellsFrom s.index n, a < memSize) →
      (cellsFrom s.index n).map s.cell = bs.map some → Ensures P (k bs)) : Ensures P (readBlock n s k) := by
  unfold Machine.readBlock
  split
  · subst_vars; exact hk [] rfl (by simp) (by simp [cellsFrom]) (by simp [cellsFrom])
  · refine Ensures.readIndex (hf _) fun hi => Ensures.checkAll hf fun hc => Ensures.readCells (fun _ => hf _) ?_
    intro bs hbs
    exact hk bs (by simpa using (congrArg List.length hbs).symm) (fun _ => hi)
      (fun a ha => readFault_none.1 (hc a ha)) hbs

/-- A block of cells inside memory that hold values: those values. -/
theorem readBlock_held {n : Nat} {s : State} {bs : List Byte} (hi : n ≠ 0 → Item.index ∉ s.blank)
    (hr : n ≠ 0 → s.index.toNat + n ≤ memSize) (hb : (cellsFrom s.index n).map s.cell = bs.map some)
    (k : List Byte → Result) : readBlock n s k = k bs := by
  unfold readBlock
  split
  · subst_vars; cases bs <;> simp_all [cellsFrom]
  · rw [readIndex_held (hi ‹_›), checkAll_pass, readCells_held hb]
    intro a ha
    have := mem_cellsFrom.1 ha; have := hr ‹_›
    exact readFault_none.2 (by omega)

/-- A block of cells inside memory of which the `j`-th is the first that holds no value. -/
theorem readBlock_blank {n j : Nat} {s : State} (hi : Item.index ∉ s.blank) (hr : s.index.toNat + n ≤ memSize)
    (hj : j < n) (h : s.cell (s.index.toNat + j) = none) (hlow : ∀ k < j, s.cell (s.index.toNat + k) ≠ none)
    (k : List Byte → Result) : readBlock n s k = raiseHere (.unwritten (.cell (s.index.toNat + j))) s := by
  unfold readBlock
  rw [if_neg (by omega), readIndex_held hi, checkAll_pass]
  · obtain ⟨m, rfl⟩ : ∃ m, n = j + (m + 1) := ⟨n - j - 1, by omega⟩
    rw [cellsFrom, List.range_add, List.map_append, List.range_succ_eq_map, List.map_cons, List.map_cons]
    refine readCells_blank ?_ h k
    simp only [List.mem_map, List.mem_range]; rintro a ⟨k, hk, rfl⟩; exact hlow k hk
  · intro a ha
    have := mem_cellsFrom.1 ha
    exact readFault_none.2 (by omega)

/-- A writable block from `I` on, or the fault it raises. -/
theorem Ensures.withWritable {P : State → Prop} {n : Nat} {s : State} {k : Nat → Result}
    (hf : ∀ f, P (s.enterFault (some s.instrAddr) f))
    (hk : Item.index ∉ s.blank → (∀ a ∈ cellsFrom s.index n, writeFault s.config a = none) →
      Ensures P (k s.index.toNat)) : Ensures P (withWritable n s k) :=
  Ensures.readIndex (hf _) fun hi => Ensures.checkAll hf (hk hi)

theorem withWritable_pass {n : Nat} {s : State} (hi : Item.index ∉ s.blank) (hr : s.index.toNat + n ≤ memSize)
    (hg : glyphBytes ≤ s.index.toNat ∨ s.config.glyphWritePolicy = .write) (k : Nat → Result) :
    withWritable n s k = k s.index.toNat := by
  unfold withWritable
  rw [readIndex_held hi, checkAll_pass]
  intro a ha
  have := mem_cellsFrom.1 ha
  exact writeFault_none.2 ⟨by omega, by rcases hg with h | h; exacts [.inl (by omega), .inr h]⟩

/-! ## Skips, keys and requests -/

@[simp] theorem State.skipIf_true (s : State) : s.skipIf true = s.advance := rfl
@[simp] theorem State.skipIf_false (s : State) : s.skipIf false = s := rfl

theorem Ensures.readKey {P : State → Prop} {b : Byte} {s : State} {k : Key → Result}
    (hf : P (s.enterFault (some s.instrAddr) (.keyRange b))) (hk : ∀ key : Key, key.val = b.toNat → Ensures P (k key)) :
    Ensures P (readKey b s k) := by
  unfold Machine.readKey
  split
  · exact hk _ rfl
  · exact Ensures.raiseHere hf

theorem request_returns {α : Type} (at? : Option Word) (call : CapCall) (v : α) (s : State) (k : α → State → Result) :
    request at? call (.returns v) s k = k v (s.issue call) := rfl

theorem request_fails {α : Type} (at? : Option Word) (call : CapCall) (s : State) (k : α → State → Result) :
    request at? call .fails s k = raise at? (.capability call) (s.issue call) := rfl

theorem request_noAnswer {α : Type} (at? : Option Word) (call : CapCall) (s : State) (k : α → State → Result) :
    request at? call .noAnswer s k = .fault (.waitsForever call) := rfl

theorem Ensures.request {α : Type} {P : State → Prop} {at? : Option Word} {call : CapCall} {r : Response α} {s : State}
    {k : α → State → Result} (hf : P ((s.issue call).enterFault at? (.capability call)))
    (hk : ∀ v, r = .returns v → Ensures P (k v (s.issue call))) : Ensures P (request at? call r s k) := by
  cases r with
  | returns v => exact hk v rfl
  | fails => exact Ensures.raise hf
  | noAnswer => exact Ensures.fault

@[simp] theorem Reply.response_returns {α : Type} (v : α) : (Reply.returns v).response = .returns v := rfl
@[simp] theorem Reply.response_fails {α : Type} : (Reply.fails : Reply α).response = .fails := rfl

/-- A non-blocking call is always answered. -/
theorem Reply.response_answered {α : Type} (r : Reply α) : r.response ≠ .noAnswer := by cases r <;> simp

theorem Ensures.askKey {P : State → Prop} {x : Reg} {s : State} {k : Bool → State → Result}
    (hf : ∀ f, P (s.enterFault (some s.instrAddr) f))
    (hc : ∀ key : Key, P ((s.issue (.isKeyPressed key)).enterFault (some s.instrAddr) (.capability (.isKeyPressed key))))
    (hk : ∀ (key : Key) (down : Bool), Ensures P (k down (s.issue (.isKeyPressed key)))) :
    Ensures P (askKey x s k) :=
  Ensures.readV (hf _) fun _ => Ensures.readKey (hf _) fun key _ => Ensures.request (hc key) fun _ _ => hk key _

/-! ## Boot -/

@[simp] theorem State.answers_presenting (a : Answers) (rest : List Answers) (s : State) :
    (s.presenting (a :: rest)).answers = a := rfl

theorem State.loadImage_fits {image : List Byte} (h : image.length ≤ maxImage) (s : State) :
    s.loadImage image = some (s.placeImage image) := by simp [State.loadImage, h]

theorem boot_legal {c : Config} {image : List Byte} (hc : c.Legal) (hi : image.length ≤ maxImage)
    (answers : List Answers) :
    boot c image (.returns ()) (.returns ()) answers = .next (((State.resetWith c).placeImage image).presenting answers) := by
  simp only [boot, if_pos (And.intro hc hi), request_returns, State.placeImage]
  rw [State.setCells_frame, State.setCells_frame progBase image (State.resetWith c)]
  rfl

theorem boot_illegal {c : Config} {image : List Byte} (h : ¬(c.Legal ∧ image.length ≤ maxImage))
    (width height : Response Unit) (answers : List Answers) :
    boot c image width height answers = .refused .illegalConfiguration := if_neg h

/-- What a boot can answer: a core in FAULTED, because `width()` or `height()` has failed, or one about to run INIT. -/
theorem Ensures.boot {P : State → Prop} {c : Config} {image : List Byte} {width height : Response Unit}
    {answers : List Answers}
    (hf : ∀ calls call, c.Legal →
      P ({ State.resetWith c with calls := calls }.enterFault none (.capability call)))
    (hk : c.Legal → image.length ≤ maxImage → P (((State.resetWith c).placeImage image).presenting answers)) :
    Ensures P (boot c image width height answers) := by
  by_cases h : c.Legal ∧ image.length ≤ maxImage
  · have hb := boot_legal h.1 h.2 answers
    simp only [Machine.boot, if_pos h, request_returns, Host.Outcome.next.injEq] at hb ⊢
    refine .request (hf _ _ h.1) fun _ _ => .request (hf _ _ h.1) fun _ _ => .next ?_
    rw [hb]
    exact hk h.1 h.2
  · rw [boot_illegal h]
    exact .refused

end Sys2Proof.Machine
end

