-- ==== Sys2Proof/Laws/Display.lean ====
section
/-!
SUPPORT. What drawing does to the pixel buffer: one lemma for the bits, one for the collision, one for the bounds.
-/

namespace Sys2Proof.Machine

/-- How many pixels of a list have the bit number `k`. -/
def landings (c : Config) (ps : List (Nat × Nat)) (k : Nat) : Nat := ps.countP fun p => pixelIndex c p.1 p.2 == k

@[simp] theorem landings_nil (c : Config) (k : Nat) : landings c [] k = 0 := rfl

theorem landings_cons (c : Config) (p : Nat × Nat) (ps : List (Nat × Nat)) (k : Nat) :
    landings c (p :: ps) k = landings c ps k + if pixelIndex c p.1 p.2 = k then 1 else 0 := by
  simp [landings, List.countP_cons]

theorem landings_append (c : Config) (ps qs : List (Nat × Nat)) (k : Nat) :
    landings c (ps ++ qs) k = landings c ps k + landings c qs k := by
  simp [landings, List.countP_append]

theorem testBit_one_shiftLeft (i k : Nat) : (1 <<< i).testBit k = decide (i = k) := by
  rw [Nat.one_shiftLeft, Nat.testBit_two_pow]

/-- Each bit ends toggled once for each pixel of the list that is its own. -/
theorem togglePixels_testBit (c : Config) (ps : List (Nat × Nat)) (bits : Nat) (hit : Bool) (k : Nat) :
    (togglePixels c ps (bits, hit)).1.testBit k = (bits.testBit k ^^ decide (landings c ps k % 2 = 1)) := by
  induction ps generalizing bits hit with
  | nil => simp [togglePixels]
  | cons p ps ih =>
    simp only [togglePixels, ih, Nat.testBit_xor, testBit_one_shiftLeft, landings_cons]
    by_cases h : pixelIndex c p.1 p.2 = k
    · simp only [h, ↓reduceIte, decide_true]
      rcases Nat.mod_two_eq_zero_or_one (landings c ps k) with e | e <;>
        cases bits.testBit k <;> simp [e, Nat.add_mod]
    · simp [h]

/-- The collision flag: some bit was set before one of its turns, that is, it was set at first and has a turn, or it has
two. -/
theorem togglePixels_hit (c : Config) (ps : List (Nat × Nat)) (bits : Nat) (hit : Bool) :
    (togglePixels c ps (bits, hit)).2 = true ↔
      hit = true ∨ ∃ k, (bits.testBit k = true ∧ 1 ≤ landings c ps k) ∨ 2 ≤ landings c ps k := by
  induction ps generalizing bits hit with
  | nil => simp [togglePixels]
  | cons p ps ih =>
    obtain ⟨x, y⟩ := p
    simp only [togglePixels, ih, landings_cons, Nat.testBit_xor, testBit_one_shiftLeft, Bool.or_eq_true]
    generalize pixelIndex c x y = i
    constructor
    · rintro ((h | h) | ⟨k, ⟨h1, h2⟩ | h⟩)
      · exact .inl h
      · exact .inr ⟨i, .inl ⟨h, by simp⟩⟩
      · refine .inr ⟨k, ?_⟩
        by_cases hk : i = k
        · right; simp only [hk, ↓reduceIte]; omega
        · left; simp_all
      · exact .inr ⟨k, .inr (by omega)⟩
    · rintro (h | ⟨k, ⟨h1, h2⟩ | h⟩)
      · exact .inl (.inl h)
      · by_cases hk : i = k
        · subst hk; exact .inl (.inr h1)
        · exact .inr ⟨k, .inl ⟨by simp_all, by simpa [hk] using h2⟩⟩
      · by_cases hk : i = k
        · subst hk
          simp only [↓reduceIte] at h
          by_cases hb : bits.testBit i = true
          · exact .inl (.inr hb)
          · exact .inr ⟨i, .inl ⟨by simp_all, by omega⟩⟩
        · exact .inr ⟨k, .inr (by simpa [hk] using h)⟩

/-- Drawing does not depend on what the buffer holds: it changes the same bits of every buffer. -/
theorem togglePixels_xor (c : Config) (ps : List (Nat × Nat)) (bits : Nat) (hit : Bool) :
    (togglePixels c ps (bits, hit)).1 = bits ^^^ (togglePixels c ps (0, false)).1 := by
  apply Nat.eq_of_testBit_eq
  intro k
  simp [togglePixels_testBit]

theorem pixelIndex_lt {c : Config} {x y : Nat} (hx : x < c.width) (hy : y < c.height) :
    pixelIndex c x y < c.width * c.height := by
  have : (y + 1) * c.width ≤ c.height * c.width := Nat.mul_le_mul_right _ hy
  rw [Nat.mul_comm c.width]
  simp only [pixelIndex]
  rw [Nat.add_mul, Nat.one_mul] at this
  omega

/-- Two pixels of the grid with one bit number are one pixel. -/
theorem pixelIndex_inj {c : Config} {x y x' y' : Nat} (hx : x < c.width) (hx' : x' < c.width)
    (h : pixelIndex c x y = pixelIndex c x' y') : x = x' ∧ y = y' := by
  simp only [pixelIndex] at h
  have h1 := congrArg (· % c.width) h
  have h2 := congrArg (· / c.width) h
  simp only [Nat.mul_comm _ c.width, Nat.mul_add_mod, Nat.mod_eq_of_lt, hx, hx'] at h1
  have hw : 0 < c.width := by omega
  simp only [Nat.mul_comm _ c.width, Nat.mul_add_div hw, Nat.div_eq_of_lt hx, Nat.div_eq_of_lt hx'] at h2
  exact ⟨h1, by simpa using h2⟩

/-- Every pixel of a sprite lies in the grid. -/
theorem mem_spritePixels {c : Config} (hc : c.Legal) {x0 y0 : Nat} {rows : List Byte} {p : Nat × Nat}
    (h : p ∈ spritePixels c x0 y0 rows) : p.1 < c.width ∧ p.2 < c.height := by
  induction rows generalizing y0 with
  | nil => simp [spritePixels] at h
  | cons b rows ih =>
    simp only [spritePixels, List.mem_append, List.mem_map] at h
    rcases h with ⟨col, -, rfl⟩ | h
    · exact ⟨Nat.mod_lt _ hc.1, Nat.mod_lt _ hc.2.1⟩
    · exact ih h

/-- A buffer of `W` × `H` bits stays one. -/
theorem togglePixels_lt {c : Config} {ps : List (Nat × Nat)} {bits : Nat} {hit : Bool}
    (hps : ∀ p ∈ ps, p.1 < c.width ∧ p.2 < c.height) (h : bits < 2 ^ (c.width * c.height)) :
    (togglePixels c ps (bits, hit)).1 < 2 ^ (c.width * c.height) := by
  induction ps generalizing bits hit with
  | nil => exact h
  | cons p ps ih =>
    simp only [togglePixels]
    refine ih (fun q hq => hps q (by simp [hq])) (Nat.xor_lt_two_pow h ?_)
    rw [Nat.one_shiftLeft]
    have := hps p (by simp)
    exact Nat.pow_lt_pow_right (by omega) (pixelIndex_lt this.1 this.2)

/-! ## The bits of a sprite, counted as the statements count them -/

theorem spriteHits_cons (c : Config) (x0 y0 : Nat) (b : Byte) (rows : List Byte) (px py : Nat) :
    spriteHits c x0 y0 (b :: rows) px py =
      ((List.range 8).countP fun col =>
          b.getLsbD (7 - col) && (x0 + col) % c.width == px && y0 % c.height == py) +
        spriteHits c x0 (y0 + 1) rows px py := by
  unfold spriteHits
  rw [List.length_cons, List.range_succ_eq_map (n := rows.length), List.map_cons, List.sum_cons, List.map_map]
  congr 2
  apply List.map_congr_left
  intro r _
  simp only [Function.comp_apply, Nat.succ_eq_add_one, List.getElem!_cons_succ]
  congr 1
  funext col
  rw [show y0 + (r + 1) = y0 + 1 + r by omega]

/-- The bits of a sprite that land on a pixel of the grid are its landings on that pixel's bit number. -/
theorem landings_spritePixels {c : Config} (hc : c.Legal) {x0 y0 : Nat} {rows : List Byte} {px py : Nat}
    (hx : px < c.width) :
    landings c (spritePixels c x0 y0 rows) (pixelIndex c px py) = spriteHits c x0 y0 rows px py := by
  induction rows generalizing y0 with
  | nil => rfl
  | cons b rows ih =>
    rw [spritePixels, landings_append, ih, spriteHits_cons, landings, setColumns, List.countP_map, List.countP_filter]
    congr 2
    funext col
    simp only [Function.comp_apply]
    by_cases h : pixelIndex c ((x0 + col) % c.width) (y0 % c.height) = pixelIndex c px py
    · obtain ⟨h1, h2⟩ := pixelIndex_inj (Nat.mod_lt _ hc.1) hx h
      simp [h1, h2]
    · have h0 : (pixelIndex c ((x0 + col) % c.width) (y0 % c.height) == pixelIndex c px py) = false := by simpa using h
      have h1 : ¬((x0 + col) % c.width = px ∧ y0 % c.height = py) := by rintro ⟨rfl, rfl⟩; exact h rfl
      rw [h0]
      by_cases h2 : (x0 + col) % c.width = px <;> simp_all

/-- A sprite lands on bit numbers of the grid alone. -/
theorem landings_in_grid {c : Config} (hc : c.Legal) {x0 y0 : Nat} {rows : List Byte} {k : Nat}
    (h : 1 ≤ landings c (spritePixels c x0 y0 rows) k) :
    ∃ px py, px < c.width ∧ py < c.height ∧ k = pixelIndex c px py := by
  obtain ⟨p, hp, e⟩ := List.countP_pos_iff.1 (Nat.lt_of_lt_of_le Nat.zero_lt_one h)
  have := mem_spritePixels hc hp
  exact ⟨p.1, p.2, this.1, this.2, (beq_iff_eq.1 e).symm⟩

end Sys2Proof.Machine
end

