-- ==== Sys2Proof/Laws/Frame.lean ====
section
/-!
SUPPORT. What the compound updates do to the V registers, and what they leave unchanged: one lemma per operation and
field.
-/

namespace Sys2Proof.Machine

/-! ### State.skipIf: a skip may move `pc` -/

@[simp] theorem State.skipIf_v (c : Bool) (s : State) : (s.skipIf c).v = s.v := by cases c <;> rfl
@[simp] theorem State.skipIf_index (c : Bool) (s : State) : (s.skipIf c).index = s.index := by cases c <;> rfl
@[simp] theorem State.skipIf_sp (c : Bool) (s : State) : (s.skipIf c).sp = s.sp := by cases c <;> rfl
@[simp] theorem State.skipIf_stack (c : Bool) (s : State) : (s.skipIf c).stack = s.stack := by cases c <;> rfl
@[simp] theorem State.skipIf_dt (c : Bool) (s : State) : (s.skipIf c).dt = s.dt := by cases c <;> rfl
@[simp] theorem State.skipIf_st (c : Bool) (s : State) : (s.skipIf c).st = s.st := by cases c <;> rfl
@[simp] theorem State.skipIf_pix (c : Bool) (s : State) : (s.skipIf c).pix = s.pix := by cases c <;> rfl
@[simp] theorem State.skipIf_mem (c : Bool) (s : State) : (s.skipIf c).mem = s.mem := by cases c <;> rfl
@[simp] theorem State.skipIf_phase (c : Bool) (s : State) : (s.skipIf c).phase = s.phase := by cases c <;> rfl
@[simp] theorem State.skipIf_faultRecord (c : Bool) (s : State) : (s.skipIf c).faultRecord = s.faultRecord := by
  cases c <;> rfl
@[simp] theorem State.skipIf_soundGate (c : Bool) (s : State) : (s.skipIf c).soundGate = s.soundGate := by
  cases c <;> rfl
@[simp] theorem State.skipIf_blank (c : Bool) (s : State) : (s.skipIf c).blank = s.blank := by cases c <;> rfl
@[simp] theorem State.skipIf_config (c : Bool) (s : State) : (s.skipIf c).config = s.config := by cases c <;> rfl
@[simp] theorem State.skipIf_calls (c : Bool) (s : State) : (s.skipIf c).calls = s.calls := by cases c <;> rfl
@[simp] theorem State.skipIf_inputs (c : Bool) (s : State) : (s.skipIf c).inputs = s.inputs := by cases c <;> rfl
@[simp] theorem State.skipIf_draws (c : Bool) (s : State) : (s.skipIf c).draws = s.draws := by cases c <;> rfl

/-! ### State.writeArith: a result and its flag go to V registers -/

@[simp] theorem State.writeArith_pc (x : Reg) (r : Byte) (f : Bool) (s : State) : (s.writeArith x r f).pc = s.pc := by
  unfold State.writeArith; split <;> rfl
@[simp] theorem State.writeArith_index (x : Reg) (r : Byte) (f : Bool) (s : State) :
    (s.writeArith x r f).index = s.index := by
  unfold State.writeArith; split <;> rfl
@[simp] theorem State.writeArith_sp (x : Reg) (r : Byte) (f : Bool) (s : State) : (s.writeArith x r f).sp = s.sp := by
  unfold State.writeArith; split <;> rfl
@[simp] theorem State.writeArith_stack (x : Reg) (r : Byte) (f : Bool) (s : State) :
    (s.writeArith x r f).stack = s.stack := by
  unfold State.writeArith; split <;> rfl
@[simp] theorem State.writeArith_dt (x : Reg) (r : Byte) (f : Bool) (s : State) : (s.writeArith x r f).dt = s.dt := by
  unfold State.writeArith; split <;> rfl
@[simp] theorem State.writeArith_st (x : Reg) (r : Byte) (f : Bool) (s : State) : (s.writeArith x r f).st = s.st := by
  unfold State.writeArith; split <;> rfl
@[simp] theorem State.writeArith_pix (x : Reg) (r : Byte) (f : Bool) (s : State) :
    (s.writeArith x r f).pix = s.pix := by
  unfold State.writeArith; split <;> rfl
@[simp] theorem State.writeArith_mem (x : Reg) (r : Byte) (f : Bool) (s : State) :
    (s.writeArith x r f).mem = s.mem := by
  unfold State.writeArith; split <;> rfl
@[simp] theorem State.writeArith_phase (x : Reg) (r : Byte) (f : Bool) (s : State) :
    (s.writeArith x r f).phase = s.phase := by
  unfold State.writeArith; split <;> rfl
@[simp] theorem State.writeArith_faultRecord (x : Reg) (r : Byte) (f : Bool) (s : State) :
    (s.writeArith x r f).faultRecord = s.faultRecord := by
  unfold State.writeArith; split <;> rfl
@[simp] theorem State.writeArith_soundGate (x : Reg) (r : Byte) (f : Bool) (s : State) :
    (s.writeArith x r f).soundGate = s.soundGate := by
  unfold State.writeArith; split <;> rfl
@[simp] theorem State.writeArith_config (x : Reg) (r : Byte) (f : Bool) (s : State) :
    (s.writeArith x r f).config = s.config := by
  unfold State.writeArith; split <;> rfl
@[simp] theorem State.writeArith_calls (x : Reg) (r : Byte) (f : Bool) (s : State) :
    (s.writeArith x r f).calls = s.calls := by
  unfold State.writeArith; split <;> rfl
@[simp] theorem State.writeArith_inputs (x : Reg) (r : Byte) (f : Bool) (s : State) :
    (s.writeArith x r f).inputs = s.inputs := by
  unfold State.writeArith; split <;> rfl
@[simp] theorem State.writeArith_draws (x : Reg) (r : Byte) (f : Bool) (s : State) :
    (s.writeArith x r f).draws = s.draws := by
  unfold State.writeArith; split <;> rfl

/-! ### State.writeShift: so do a shift's -/

@[simp] theorem State.writeShift_pc (x : Reg) (g : Byte → Byte) (f : Byte → Bool) (s : State) :
    (s.writeShift x g f).pc = s.pc := by
  unfold State.writeShift; split <;> rfl
@[simp] theorem State.writeShift_index (x : Reg) (g : Byte → Byte) (f : Byte → Bool) (s : State) :
    (s.writeShift x g f).index = s.index := by
  unfold State.writeShift; split <;> rfl
@[simp] theorem State.writeShift_sp (x : Reg) (g : Byte → Byte) (f : Byte → Bool) (s : State) :
    (s.writeShift x g f).sp = s.sp := by
  unfold State.writeShift; split <;> rfl
@[simp] theorem State.writeShift_stack (x : Reg) (g : Byte → Byte) (f : Byte → Bool) (s : State) :
    (s.writeShift x g f).stack = s.stack := by
  unfold State.writeShift; split <;> rfl
@[simp] theorem State.writeShift_dt (x : Reg) (g : Byte → Byte) (f : Byte → Bool) (s : State) :
    (s.writeShift x g f).dt = s.dt := by
  unfold State.writeShift; split <;> rfl
@[simp] theorem State.writeShift_st (x : Reg) (g : Byte → Byte) (f : Byte → Bool) (s : State) :
    (s.writeShift x g f).st = s.st := by
  unfold State.writeShift; split <;> rfl
@[simp] theorem State.writeShift_pix (x : Reg) (g : Byte → Byte) (f : Byte → Bool) (s : State) :
    (s.writeShift x g f).pix = s.pix := by
  unfold State.writeShift; split <;> rfl
@[simp] theorem State.writeShift_mem (x : Reg) (g : Byte → Byte) (f : Byte → Bool) (s : State) :
    (s.writeShift x g f).mem = s.mem := by
  unfold State.writeShift; split <;> rfl
@[simp] theorem State.writeShift_phase (x : Reg) (g : Byte → Byte) (f : Byte → Bool) (s : State) :
    (s.writeShift x g f).phase = s.phase := by
  unfold State.writeShift; split <;> rfl
@[simp] theorem State.writeShift_faultRecord (x : Reg) (g : Byte → Byte) (f : Byte → Bool) (s : State) :
    (s.writeShift x g f).faultRecord = s.faultRecord := by
  unfold State.writeShift; split <;> rfl
@[simp] theorem State.writeShift_soundGate (x : Reg) (g : Byte → Byte) (f : Byte → Bool) (s : State) :
    (s.writeShift x g f).soundGate = s.soundGate := by
  unfold State.writeShift; split <;> rfl
@[simp] theorem State.writeShift_config (x : Reg) (g : Byte → Byte) (f : Byte → Bool) (s : State) :
    (s.writeShift x g f).config = s.config := by
  unfold State.writeShift; split <;> rfl
@[simp] theorem State.writeShift_calls (x : Reg) (g : Byte → Byte) (f : Byte → Bool) (s : State) :
    (s.writeShift x g f).calls = s.calls := by
  unfold State.writeShift; split <;> rfl
@[simp] theorem State.writeShift_inputs (x : Reg) (g : Byte → Byte) (f : Byte → Bool) (s : State) :
    (s.writeShift x g f).inputs = s.inputs := by
  unfold State.writeShift; split <;> rfl
@[simp] theorem State.writeShift_draws (x : Reg) (g : Byte → Byte) (f : Byte → Bool) (s : State) :
    (s.writeShift x g f).draws = s.draws := by
  unfold State.writeShift; split <;> rfl

/-! ### State.drawSprite: a sprite changes the pixel buffer and VF -/

@[simp] theorem State.drawSprite_pc (x0 y0 : Nat) (rows : List Byte) (s : State) : (s.drawSprite x0 y0 rows).pc = s.pc := rfl
@[simp] theorem State.drawSprite_index (x0 y0 : Nat) (rows : List Byte) (s : State) : (s.drawSprite x0 y0 rows).index = s.index := rfl
@[simp] theorem State.drawSprite_sp (x0 y0 : Nat) (rows : List Byte) (s : State) : (s.drawSprite x0 y0 rows).sp = s.sp := rfl
@[simp] theorem State.drawSprite_stack (x0 y0 : Nat) (rows : List Byte) (s : State) : (s.drawSprite x0 y0 rows).stack = s.stack := rfl
@[simp] theorem State.drawSprite_dt (x0 y0 : Nat) (rows : List Byte) (s : State) : (s.drawSprite x0 y0 rows).dt = s.dt := rfl
@[simp] theorem State.drawSprite_st (x0 y0 : Nat) (rows : List Byte) (s : State) : (s.drawSprite x0 y0 rows).st = s.st := rfl
@[simp] theorem State.drawSprite_mem (x0 y0 : Nat) (rows : List Byte) (s : State) : (s.drawSprite x0 y0 rows).mem = s.mem := rfl
@[simp] theorem State.drawSprite_phase (x0 y0 : Nat) (rows : List Byte) (s : State) : (s.drawSprite x0 y0 rows).phase = s.phase := rfl
@[simp] theorem State.drawSprite_faultRecord (x0 y0 : Nat) (rows : List Byte) (s : State) : (s.drawSprite x0 y0 rows).faultRecord = s.faultRecord := rfl
@[simp] theorem State.drawSprite_soundGate (x0 y0 : Nat) (rows : List Byte) (s : State) : (s.drawSprite x0 y0 rows).soundGate = s.soundGate := rfl
@[simp] theorem State.drawSprite_config (x0 y0 : Nat) (rows : List Byte) (s : State) : (s.drawSprite x0 y0 rows).config = s.config := rfl
@[simp] theorem State.drawSprite_calls (x0 y0 : Nat) (rows : List Byte) (s : State) : (s.drawSprite x0 y0 rows).calls = s.calls := rfl
@[simp] theorem State.drawSprite_inputs (x0 y0 : Nat) (rows : List Byte) (s : State) : (s.drawSprite x0 y0 rows).inputs = s.inputs := rfl
@[simp] theorem State.drawSprite_draws (x0 y0 : Nat) (rows : List Byte) (s : State) : (s.drawSprite x0 y0 rows).draws = s.draws := rfl

/-! ### State.setCells: stores change the memory -/

@[simp] theorem State.setCells_v (a : Nat) (bytes : List Byte) (s : State) : (s.setCells a bytes).v = s.v := by
  rw [State.setCells_frame]
@[simp] theorem State.setCells_pc (a : Nat) (bytes : List Byte) (s : State) : (s.setCells a bytes).pc = s.pc := by
  rw [State.setCells_frame]
@[simp] theorem State.setCells_index (a : Nat) (bytes : List Byte) (s : State) :
    (s.setCells a bytes).index = s.index := by
  rw [State.setCells_frame]
@[simp] theorem State.setCells_sp (a : Nat) (bytes : List Byte) (s : State) : (s.setCells a bytes).sp = s.sp := by
  rw [State.setCells_frame]
@[simp] theorem State.setCells_stack (a : Nat) (bytes : List Byte) (s : State) :
    (s.setCells a bytes).stack = s.stack := by
  rw [State.setCells_frame]
@[simp] theorem State.setCells_dt (a : Nat) (bytes : List Byte) (s : State) : (s.setCells a bytes).dt = s.dt := by
  rw [State.setCells_frame]
@[simp] theorem State.setCells_st (a : Nat) (bytes : List Byte) (s : State) : (s.setCells a bytes).st = s.st := by
  rw [State.setCells_frame]
@[simp] theorem State.setCells_pix (a : Nat) (bytes : List Byte) (s : State) : (s.setCells a bytes).pix = s.pix := by
  rw [State.setCells_frame]
@[simp] theorem State.setCells_phase (a : Nat) (bytes : List Byte) (s : State) :
    (s.setCells a bytes).phase = s.phase := by
  rw [State.setCells_frame]
@[simp] theorem State.setCells_faultRecord (a : Nat) (bytes : List Byte) (s : State) :
    (s.setCells a bytes).faultRecord = s.faultRecord := by
  rw [State.setCells_frame]
@[simp] theorem State.setCells_soundGate (a : Nat) (bytes : List Byte) (s : State) :
    (s.setCells a bytes).soundGate = s.soundGate := by
  rw [State.setCells_frame]
@[simp] theorem State.setCells_blank (a : Nat) (bytes : List Byte) (s : State) :
    (s.setCells a bytes).blank = s.blank := by
  rw [State.setCells_frame]
@[simp] theorem State.setCells_config (a : Nat) (bytes : List Byte) (s : State) :
    (s.setCells a bytes).config = s.config := by
  rw [State.setCells_frame]
@[simp] theorem State.setCells_calls (a : Nat) (bytes : List Byte) (s : State) :
    (s.setCells a bytes).calls = s.calls := by
  rw [State.setCells_frame]
@[simp] theorem State.setCells_inputs (a : Nat) (bytes : List Byte) (s : State) :
    (s.setCells a bytes).inputs = s.inputs := by
  rw [State.setCells_frame]
@[simp] theorem State.setCells_draws (a : Nat) (bytes : List Byte) (s : State) :
    (s.setCells a bytes).draws = s.draws := by
  rw [State.setCells_frame]

/-! ### State.setRegs: a block load changes V registers -/

@[simp] theorem State.setRegs_pc (xs : List Reg) (bytes : List Byte) (s : State) : (s.setRegs xs bytes).pc = s.pc := by
  rw [State.setRegs_frame]
@[simp] theorem State.setRegs_index (xs : List Reg) (bytes : List Byte) (s : State) :
    (s.setRegs xs bytes).index = s.index := by
  rw [State.setRegs_frame]
@[simp] theorem State.setRegs_sp (xs : List Reg) (bytes : List Byte) (s : State) : (s.setRegs xs bytes).sp = s.sp := by
  rw [State.setRegs_frame]
@[simp] theorem State.setRegs_stack (xs : List Reg) (bytes : List Byte) (s : State) :
    (s.setRegs xs bytes).stack = s.stack := by
  rw [State.setRegs_frame]
@[simp] theorem State.setRegs_dt (xs : List Reg) (bytes : List Byte) (s : State) : (s.setRegs xs bytes).dt = s.dt := by
  rw [State.setRegs_frame]
@[simp] theorem State.setRegs_st (xs : List Reg) (bytes : List Byte) (s : State) : (s.setRegs xs bytes).st = s.st := by
  rw [State.setRegs_frame]
@[simp] theorem State.setRegs_pix (xs : List Reg) (bytes : List Byte) (s : State) :
    (s.setRegs xs bytes).pix = s.pix := by
  rw [State.setRegs_frame]
@[simp] theorem State.setRegs_mem (xs : List Reg) (bytes : List Byte) (s : State) :
    (s.setRegs xs bytes).mem = s.mem := by
  rw [State.setRegs_frame]
@[simp] theorem State.setRegs_phase (xs : List Reg) (bytes : List Byte) (s : State) :
    (s.setRegs xs bytes).phase = s.phase := by
  rw [State.setRegs_frame]
@[simp] theorem State.setRegs_faultRecord (xs : List Reg) (bytes : List Byte) (s : State) :
    (s.setRegs xs bytes).faultRecord = s.faultRecord := by
  rw [State.setRegs_frame]
@[simp] theorem State.setRegs_soundGate (xs : List Reg) (bytes : List Byte) (s : State) :
    (s.setRegs xs bytes).soundGate = s.soundGate := by
  rw [State.setRegs_frame]
@[simp] theorem State.setRegs_config (xs : List Reg) (bytes : List Byte) (s : State) :
    (s.setRegs xs bytes).config = s.config := by
  rw [State.setRegs_frame]
@[simp] theorem State.setRegs_calls (xs : List Reg) (bytes : List Byte) (s : State) :
    (s.setRegs xs bytes).calls = s.calls := by
  rw [State.setRegs_frame]
@[simp] theorem State.setRegs_inputs (xs : List Reg) (bytes : List Byte) (s : State) :
    (s.setRegs xs bytes).inputs = s.inputs := by
  rw [State.setRegs_frame]
@[simp] theorem State.setRegs_draws (xs : List Reg) (bytes : List Byte) (s : State) :
    (s.setRegs xs bytes).draws = s.draws := by
  rw [State.setRegs_frame]

/-! ### State.afterService and State.afterCycle: the phase may change -/

@[simp] theorem State.afterService_v (a : Answers) (s : State) : (s.afterService a).v = s.v := by
  unfold State.afterService; split <;> rfl
@[simp] theorem State.afterService_pc (a : Answers) (s : State) : (s.afterService a).pc = s.pc := by
  unfold State.afterService; split <;> rfl
@[simp] theorem State.afterService_index (a : Answers) (s : State) : (s.afterService a).index = s.index := by
  unfold State.afterService; split <;> rfl
@[simp] theorem State.afterService_sp (a : Answers) (s : State) : (s.afterService a).sp = s.sp := by
  unfold State.afterService; split <;> rfl
@[simp] theorem State.afterService_stack (a : Answers) (s : State) : (s.afterService a).stack = s.stack := by
  unfold State.afterService; split <;> rfl
@[simp] theorem State.afterService_dt (a : Answers) (s : State) : (s.afterService a).dt = s.dt := by
  unfold State.afterService; split <;> rfl
@[simp] theorem State.afterService_st (a : Answers) (s : State) : (s.afterService a).st = s.st := by
  unfold State.afterService; split <;> rfl
@[simp] theorem State.afterService_pix (a : Answers) (s : State) : (s.afterService a).pix = s.pix := by
  unfold State.afterService; split <;> rfl
@[simp] theorem State.afterService_mem (a : Answers) (s : State) : (s.afterService a).mem = s.mem := by
  unfold State.afterService; split <;> rfl
@[simp] theorem State.afterService_faultRecord (a : Answers) (s : State) : (s.afterService a).faultRecord = s.faultRecord := by
  unfold State.afterService; split <;> rfl
@[simp] theorem State.afterService_soundGate (a : Answers) (s : State) : (s.afterService a).soundGate = s.soundGate := by
  unfold State.afterService; split <;> rfl
@[simp] theorem State.afterService_blank (a : Answers) (s : State) : (s.afterService a).blank = s.blank := by
  unfold State.afterService; split <;> rfl
@[simp] theorem State.afterService_config (a : Answers) (s : State) : (s.afterService a).config = s.config := by
  unfold State.afterService; split <;> rfl
@[simp] theorem State.afterService_calls (a : Answers) (s : State) : (s.afterService a).calls = s.calls := by
  unfold State.afterService; split <;> rfl
@[simp] theorem State.afterService_inputs (a : Answers) (s : State) : (s.afterService a).inputs = s.inputs := by
  unfold State.afterService; split <;> rfl
@[simp] theorem State.afterService_draws (a : Answers) (s : State) : (s.afterService a).draws = s.draws := by
  unfold State.afterService; split <;> rfl
@[simp] theorem State.afterCycle_v (s : State) : s.afterCycle.v = s.v := by
  unfold State.afterCycle; split <;> rfl
@[simp] theorem State.afterCycle_pc (s : State) : s.afterCycle.pc = s.pc := by
  unfold State.afterCycle; split <;> rfl
@[simp] theorem State.afterCycle_index (s : State) : s.afterCycle.index = s.index := by
  unfold State.afterCycle; split <;> rfl
@[simp] theorem State.afterCycle_sp (s : State) : s.afterCycle.sp = s.sp := by
  unfold State.afterCycle; split <;> rfl
@[simp] theorem State.afterCycle_stack (s : State) : s.afterCycle.stack = s.stack := by
  unfold State.afterCycle; split <;> rfl
@[simp] theorem State.afterCycle_dt (s : State) : s.afterCycle.dt = s.dt := by
  unfold State.afterCycle; split <;> rfl
@[simp] theorem State.afterCycle_st (s : State) : s.afterCycle.st = s.st := by
  unfold State.afterCycle; split <;> rfl
@[simp] theorem State.afterCycle_pix (s : State) : s.afterCycle.pix = s.pix := by
  unfold State.afterCycle; split <;> rfl
@[simp] theorem State.afterCycle_mem (s : State) : s.afterCycle.mem = s.mem := by
  unfold State.afterCycle; split <;> rfl
@[simp] theorem State.afterCycle_faultRecord (s : State) : s.afterCycle.faultRecord = s.faultRecord := by
  unfold State.afterCycle; split <;> rfl
@[simp] theorem State.afterCycle_soundGate (s : State) : s.afterCycle.soundGate = s.soundGate := by
  unfold State.afterCycle; split <;> rfl
@[simp] theorem State.afterCycle_blank (s : State) : s.afterCycle.blank = s.blank := by
  unfold State.afterCycle; split <;> rfl
@[simp] theorem State.afterCycle_config (s : State) : s.afterCycle.config = s.config := by
  unfold State.afterCycle; split <;> rfl
@[simp] theorem State.afterCycle_calls (s : State) : s.afterCycle.calls = s.calls := by
  unfold State.afterCycle; split <;> rfl
@[simp] theorem State.afterCycle_inputs (s : State) : s.afterCycle.inputs = s.inputs := by
  unfold State.afterCycle; split <;> rfl
@[simp] theorem State.afterCycle_draws (s : State) : s.afterCycle.draws = s.draws := by
  unfold State.afterCycle; split <;> rfl

/-! ## What holds no value afterwards: what held none before and has not been written -/

theorem mem_blank_setRegs {xs : List Reg} {bs : List Byte} (h : xs.length = bs.length) {s : State} {it : Item} :
    it ∈ (s.setRegs xs bs).blank ↔ it ∈ s.blank ∧ ∀ r ∈ xs, it ≠ .v r := by
  induction xs generalizing bs s with
  | nil => cases bs <;> simp [State.setRegs]
  | cons x xs ih =>
    cases bs with
    | nil => simp at h
    | cons b bs =>
      simp only [State.setRegs, ih (s := s.setV x b) (by simpa using h), State.setV_blank, mem_fill, List.mem_cons]
      constructor
      · rintro ⟨⟨h1, h2⟩, h3⟩
        exact ⟨h1, by rintro r (rfl | hr); exacts [h2, h3 r hr]⟩
      · rintro ⟨h1, h2⟩
        exact ⟨⟨h1, h2 x (.inl rfl)⟩, fun r hr => h2 r (.inr hr)⟩

theorem mem_blank_writeArith {x : Reg} {b : Byte} {f : Bool} {s : State} {it : Item} :
    it ∈ (s.writeArith x b f).blank ↔ it ∈ s.blank ∧ it ≠ .v x ∧ it ≠ .v 15 := by
  unfold State.writeArith
  split <;> simp [State.setFlag] <;> tauto

theorem mem_blank_writeShift {x : Reg} {g : Byte → Byte} {f : Byte → Bool} {s : State} {it : Item} :
    it ∈ (s.writeShift x g f).blank ↔ it ∈ s.blank ∧ it ≠ .v x ∧ it ≠ .v 15 := by
  unfold State.writeShift
  split <;> simp [State.setFlag] <;> tauto

theorem mem_blank_drawSprite {x0 y0 : Nat} {rows : List Byte} {s : State} {it : Item} :
    it ∈ (s.drawSprite x0 y0 rows).blank ↔ it ∈ s.blank ∧ it ≠ .v 15 := mem_fill

/-! ## A result and its flag in the V registers -/

theorem Reg.val_ne {x y : Reg} (h : x ≠ y) : x.val ≠ y.val := fun e => h (Fin.ext e)

theorem State.writeArith_other {x r : Reg} (hx : r ≠ x) (hf : r ≠ 15) (b : Byte) (f : Bool) (s : State) :
    (s.writeArith x b f).v[r] = s.v[r] := by
  have h1 := (Reg.val_ne hx).symm
  have h2 := (Reg.val_ne hf).symm
  unfold State.writeArith
  split <;> simp only [State.setFlag, State.setV_v, Fin.getElem_fin, Vector.getElem_set_ne _ _ h1,
    Vector.getElem_set_ne _ _ h2]

/-- The flag stays in VF if it is written last, or if the result goes elsewhere. -/
theorem State.writeArith_flag {x : Reg} {s : State} (h : x ≠ 15 ∨ s.config.arithFlagLast = true) (b : Byte)
    (f : Bool) : (s.writeArith x b f).v[15] = flagByte f := by
  unfold State.writeArith
  split
  · simp [State.setFlag]
  · have h1 : x.val ≠ 15 := Reg.val_ne (h.resolve_right ‹_›)
    simp only [State.setFlag, State.setV_v, Vector.getElem_set_ne _ _ h1]
    simp

/-- The result stays in its register if it is written last, or if that register is not VF. -/
theorem State.writeArith_result {x : Reg} {s : State} (h : x ≠ 15 ∨ s.config.arithFlagLast = false) (b : Byte)
    (f : Bool) : (s.writeArith x b f).v[x] = b := by
  unfold State.writeArith
  split
  · have h1 := (Reg.val_ne (h.resolve_right (by simp [*]))).symm
    simp only [State.setFlag, State.setV_v, Fin.getElem_fin, Vector.getElem_set_ne _ _ h1]
    simp
  · simp

theorem State.writeShift_other {x r : Reg} (hx : r ≠ x) (hf : r ≠ 15) (g : Byte → Byte) (f : Byte → Bool)
    (s : State) : (s.writeShift x g f).v[r] = s.v[r] := by
  have h1 := (Reg.val_ne hx).symm
  have h2 := (Reg.val_ne hf).symm
  unfold State.writeShift
  split <;> simp only [State.setFlag, State.setV_v, Fin.getElem_fin, Vector.getElem_set_ne _ _ h1,
    Vector.getElem_set_ne _ _ h2]

/-- A shift of a register other than VF: in either order, the shifted value there and the flag in VF. -/
theorem State.writeShift_apart {x : Reg} (h : x ≠ 15) (g : Byte → Byte) (f : Byte → Bool) (s : State) :
    (s.writeShift x g f).v[x] = g s.v[x] ∧ (s.writeShift x g f).v[15] = flagByte (f s.v[x]) := by
  have h1 := (Reg.val_ne h).symm
  have h2 : x.val ≠ 15 := Reg.val_ne h
  unfold State.writeShift
  split <;> constructor <;>
    simp only [State.setFlag, State.setV_v, Fin.getElem_fin, Vector.getElem_set_ne _ _ h1,
      Vector.getElem_set_ne _ _ h2] <;> simp

/-- A shift of VF itself: the flag shifted if it is written first, else the flag. -/
theorem State.writeShift_vf (g : Byte → Byte) (f : Byte → Bool) (s : State) :
    (s.writeShift 15 g f).v[15] =
      if s.config.shiftFlagFirst then g (flagByte (f s.v[15])) else flagByte (f s.v[15]) := by
  unfold State.writeShift
  split <;> simp [State.setFlag, *]

end Sys2Proof.Machine
end

