-- ==== Sys2Proof/Laws/Exec.lean ====
section
/-!
SUPPORT. Once and for all, what an instruction can do: if `exec` answers a next state, the instruction has raised a fault
of its own, or its capability call has failed, or it has completed as its rule says.
-/

namespace Sys2Proof.Machine

/-- The state an instruction leaves when it completes, with what that tells of the state it started in. -/
def Completion (i : Instr) (s t : State) : Prop :=
  match i with
  | .sys _ => t = s
  | .cls => t = s.setPix ⟨0⟩
  | .ret => ∃ j : Fin stackDepth, s.sp.toNat = j.val + 1 ∧ Item.stack j ∉ s.blank ∧
      t = (s.setSp (s.sp - 1)).setPc s.stack[j]
  | .call nnn => ∃ j : Fin stackDepth, s.sp.toNat = j.val ∧
      t = ((s.setStack j s.pc).setSp (s.sp + 1)).setPc (zextAddr nnn)
  | .jp nnn => t = s.setPc (zextAddr nnn)
  | .jpOff nnn => t = s.setPc (zextAddr nnn + zextByte s.v[s.config.jumpOffsetReg])
  | .seImm x kk => t = s.skipIf (s.v[x] == kk)
  | .sneImm x kk => t = s.skipIf (s.v[x] != kk)
  | .seReg x y => t = s.skipIf (s.v[x] == s.v[y])
  | .sneReg x y => t = s.skipIf (s.v[x] != s.v[y])
  | .ldImm x kk => t = s.setV x kk
  | .addImm x kk => t = s.setV x (s.v[x] + kk)
  | .ldReg x y => t = s.setV x s.v[y]
  | .or x y => t = s.setV x (s.v[x] ||| s.v[y])
  | .and x y => t = s.setV x (s.v[x] &&& s.v[y])
  | .xor x y => t = s.setV x (s.v[x] ^^^ s.v[y])
  | .addReg x y => t = s.writeArith x (s.v[x] + s.v[y]) (carry s.v[x] s.v[y])
  | .subReg x y => t = s.writeArith x (s.v[x] - s.v[y]) (greater s.v[x] s.v[y])
  | .subn x y => t = s.writeArith x (s.v[y] - s.v[x]) (greater s.v[y] s.v[x])
  | .shr x _ => t = s.writeShift x (· >>> 1) lowBit
  | .shl x _ => t = s.writeShift x (· <<< 1) highBitSet
  | .rnd x kk => t = s.setV x (s.answers.draw8 &&& kk)
  | .ldI nnn => t = s.setIndex (zextAddr nnn)
  | .addI x => t = s.setIndex (s.index + zextByte s.v[x])
  | .ldF x => t = s.setIndex (glyphAddr s.v[x])
  | .ldB x => (∀ a ∈ cellsFrom s.index 3, writeFault s.config a = none) ∧
      t = s.setCells s.index.toNat (bcdDigits s.v[x])
  | .storeRegs x => (∀ a ∈ cellsFrom s.index (x.val + 1), writeFault s.config a = none) ∧
      (∀ r ∈ regsUpTo x, Item.v r ∉ s.blank) ∧
      t = s.setCells s.index.toNat ((regsUpTo x).map fun r => s.v[r])
  | .loadRegs x => ∃ bytes : List Byte, bytes.length = x.val + 1 ∧
      (∀ a ∈ cellsFrom s.index (x.val + 1), a < memSize) ∧
      (cellsFrom s.index (x.val + 1)).map s.cell = bytes.map some ∧ t = s.setRegs (regsUpTo x) bytes
  | .drw x y n => ∃ rows : List Byte, rows.length = n.val ∧ (∀ a ∈ cellsFrom s.index n.val, a < memSize) ∧
      (cellsFrom s.index n.val).map s.cell = rows.map some ∧
      t = s.drawSprite s.v[x].toNat s.v[y].toNat rows
  | .skp x => ∃ key : Key, key.val = s.v[x].toNat ∧ ∃ down, t = (s.issue (.isKeyPressed key)).skipIf down
  | .sknp x => ∃ key : Key, key.val = s.v[x].toNat ∧ ∃ down, t = (s.issue (.isKeyPressed key)).skipIf down
  | .ldVxDt x => t = s.setV x s.dt
  | .ldVxK x => ∃ event, t = (s.issue .waitForKey).setV x (keyValue s.config event)
  | .ldDtVx x => t = s.setDt s.v[x]
  | .ldStVx x => t = s.setSt s.v[x]

/-- The one capability call an instruction can make. -/
def KeyCall (i : Instr) (call : CapCall) : Prop :=
  (∃ x key, (i = .skp x ∨ i = .sknp x) ∧ call = .isKeyPressed key) ∨ ∃ x, i = .ldVxK x ∧ call = .waitForKey

/-- What `exec` can answer as a next state. An instruction that completes has found all its first reads written. -/
inductive ExecNext (i : Instr) (s : State) : State → Prop where
  | faults (f : FaultKind) : ExecNext i s (s.enterFault (some s.instrAddr) f)
  | callFails (call : CapCall) (h : KeyCall i call) :
      ExecNext i s ((s.issue call).enterFault (some s.instrAddr) (.capability call))
  | completes (t : State) (hr : i.Readable s) (h : Completion i s t) : ExecNext i s t

/-- Completing leaves the scheduler's state, the parameters and the two ports' other ends alone. -/
theorem Completion.control {i : Instr} {s t : State} (h : Completion i s t) :
    t.phase = s.phase ∧ t.faultRecord = s.faultRecord ∧ t.soundGate = s.soundGate ∧ t.config = s.config ∧
      t.inputs = s.inputs ∧ t.draws = s.draws := by
  cases i <;> simp only [Completion] at h <;>
    first
    | (subst h; simp)
    | (obtain ⟨_, _, rfl⟩ := h; simp)
    | (obtain ⟨_, _, _, rfl⟩ := h; simp)
    | (obtain ⟨_, _, _, _, rfl⟩ := h; simp)

/-- Completing leaves nothing without a value that had one. -/
theorem Completion.blank {i : Instr} {s t : State} (h : Completion i s t) {it : Item} (hit : it ∈ t.blank) :
    it ∈ s.blank := by
  cases i <;> simp only [Completion] at h
  case loadRegs => obtain ⟨_, hl, _, _, rfl⟩ := h; exact ((mem_blank_setRegs (by simp [hl])).1 hit).1
  case drw => obtain ⟨_, _, _, _, rfl⟩ := h; exact (mem_blank_drawSprite.1 hit).1
  case addReg | subReg | subn => subst h; exact (mem_blank_writeArith.1 hit).1
  case shr | shl => subst h; exact (mem_blank_writeShift.1 hit).1
  case ldVxK => obtain ⟨_, rfl⟩ := h; simpa using (mem_fill.1 hit).1
  case call => obtain ⟨_, _, rfl⟩ := h; simpa using (mem_fill.1 hit).1
  case ldImm | addImm | ldReg | or | and | xor | rnd | ldVxDt | ldI | addI | ldF =>
    subst h; exact (mem_fill.1 hit).1
  all_goals
    first
    | (subst h; simpa using hit)
    | (obtain ⟨_, _, rfl⟩ := h; simpa using hit)
    | (obtain ⟨_, _, _, rfl⟩ := h; simpa using hit)

theorem exec_cases {i : Instr} {s t : State} (h : exec i s = .next t) : ExecNext i s t := by
  have hf := fun f => ExecNext.faults (i := i) (s := s) f
  suffices Ensures (ExecNext i s) (exec i s) from this t h
  have one : ∀ {it : Item}, it ∉ s.blank → ∀ jt ∈ [it], jt ∉ s.blank := by
    intro it hit jt hjt; rw [List.mem_singleton.1 hjt]; exact hit
  have two : ∀ {it jt : Item}, it ∉ s.blank → jt ∉ s.blank → ∀ kt ∈ [it, jt], kt ∉ s.blank := by
    intro it jt hit hjt kt hkt
    simp only [List.mem_cons, List.not_mem_nil, or_false] at hkt
    rcases hkt with rfl | rfl <;> assumption
  cases i with
  | sys nnn =>
    simp only [exec, execSys]
    exact .next (ExecNext.completes _ (by simp [Instr.Readable, Instr.firstReads]) rfl)
  | cls =>
    simp only [exec, execCls]
    exact .next (ExecNext.completes _ (by simp [Instr.Readable, Instr.firstReads]) rfl)
  | ret =>
    simp only [exec, execRet]
    split
    · exact .raiseHere (hf _)
    · split
      · rename_i h1 h2
        refine .readItem (hf _) fun hs => .next (ExecNext.completes _ (by simp [Instr.Readable, Instr.firstReads]) ?_)
        exact ⟨_, by simp only; omega, hs, rfl⟩
      · exact .raiseHere (hf _)
  | jp nnn =>
    simp only [exec, execJp]
    exact .next (ExecNext.completes _ (by simp [Instr.Readable, Instr.firstReads]) rfl)
  | call nnn =>
    simp only [exec, execCall]
    split
    · exact .next (ExecNext.completes _ (by simp [Instr.Readable, Instr.firstReads]) ⟨_, rfl, rfl⟩)
    · exact .raiseHere (hf _)
  | seImm x kk =>
    simp only [exec, execSeImm]
    exact .readV (hf _) fun h1 => .next (ExecNext.completes _ (one h1) rfl)
  | sneImm x kk =>
    simp only [exec, execSneImm]
    exact .readV (hf _) fun h1 => .next (ExecNext.completes _ (one h1) rfl)
  | seReg x y =>
    simp only [exec, execSeReg]
    exact .readV (hf _) fun h1 => .readV (hf _) fun h2 => .next (ExecNext.completes _ (two h1 h2) rfl)
  | sneReg x y =>
    simp only [exec, execSneReg]
    exact .readV (hf _) fun h1 => .readV (hf _) fun h2 => .next (ExecNext.completes _ (two h1 h2) rfl)
  | ldImm x kk =>
    simp only [exec, execLdImm]
    exact .next (ExecNext.completes _ (by simp [Instr.Readable, Instr.firstReads]) rfl)
  | addImm x kk =>
    simp only [exec, execAddImm]
    exact .readV (hf _) fun h1 => .next (ExecNext.completes _ (one h1) rfl)
  | ldReg x y =>
    simp only [exec, execLdReg]
    exact .readV (hf _) fun h1 => .next (ExecNext.completes _ (one h1) rfl)
  | or x y =>
    simp only [exec, execOr]
    exact .readV (hf _) fun h1 => .readV (hf _) fun h2 => .next (ExecNext.completes _ (two h1 h2) rfl)
  | and x y =>
    simp only [exec, execAnd]
    exact .readV (hf _) fun h1 => .readV (hf _) fun h2 => .next (ExecNext.completes _ (two h1 h2) rfl)
  | xor x y =>
    simp only [exec, execXor]
    exact .readV (hf _) fun h1 => .readV (hf _) fun h2 => .next (ExecNext.completes _ (two h1 h2) rfl)
  | addReg x y =>
    simp only [exec, execAddReg]
    exact .readV (hf _) fun h1 => .readV (hf _) fun h2 => .next (ExecNext.completes _ (two h1 h2) rfl)
  | subReg x y =>
    simp only [exec, execSubReg]
    exact .readV (hf _) fun h1 => .readV (hf _) fun h2 => .next (ExecNext.completes _ (two h1 h2) rfl)
  | shr x y =>
    simp only [exec, execShr]
    exact .readV (hf _) fun h1 => .next (ExecNext.completes _ (one h1) rfl)
  | subn x y =>
    simp only [exec, execSubn]
    exact .readV (hf _) fun hy => .readV (hf _) fun hx => .next (ExecNext.completes _ (two hy hx) rfl)
  | shl x y =>
    simp only [exec, execShl]
    exact .readV (hf _) fun h1 => .next (ExecNext.completes _ (one h1) rfl)
  | ldI nnn =>
    simp only [exec, execLdI]
    exact .next (ExecNext.completes _ (by simp [Instr.Readable, Instr.firstReads]) rfl)
  | jpOff nnn =>
    simp only [exec, execJpOff]
    exact .readV (hf _) fun h1 => .next (ExecNext.completes _ (one h1) rfl)
  | rnd x kk =>
    simp only [exec, execRnd]
    exact .next (ExecNext.completes _ (by simp [Instr.Readable, Instr.firstReads]) rfl)
  | drw x y n =>
    simp only [exec, execDrw]
    refine .readV (hf _) fun h1 => .readV (hf _) fun h2 => .readBlock hf fun bs hl hi ha hc =>
      .next (ExecNext.completes _ ?_ ⟨bs, hl, ha, hc, rfl⟩)
    simp only [Instr.Readable, Instr.firstReads]
    split
    · exact two h1 h2
    · intro it hit
      rcases List.mem_cons.1 hit with rfl | hit
      · exact h1
      · exact two h2 (hi ‹_›) it hit
  | skp x =>
    simp only [exec, execSkp, askKey]
    refine .readV (hf _) fun h1 => .readKey (hf _) fun key hk => .request (ExecNext.callFails _ ?_) fun keys _ =>
      .next (ExecNext.completes _ (one h1) ⟨key, hk, _, rfl⟩)
    exact .inl ⟨x, key, .inl rfl, rfl⟩
  | sknp x =>
    simp only [exec, execSknp, askKey]
    refine .readV (hf _) fun h1 => .readKey (hf _) fun key hk => .request (ExecNext.callFails _ ?_) fun keys _ =>
      .next (ExecNext.completes _ (one h1) ⟨key, hk, _, rfl⟩)
    exact .inl ⟨x, key, .inr rfl, rfl⟩
  | ldVxDt x =>
    simp only [exec, execLdVxDt]
    exact .next (ExecNext.completes _ (by simp [Instr.Readable, Instr.firstReads]) rfl)
  | ldVxK x =>
    simp only [exec, execLdVxK]
    exact .request (ExecNext.callFails _ (.inr ⟨x, rfl, rfl⟩)) fun event _ =>
      .next (ExecNext.completes _ (by simp [Instr.Readable, Instr.firstReads]) ⟨event, rfl⟩)
  | ldDtVx x =>
    simp only [exec, execLdDtVx]
    exact .readV (hf _) fun h1 => .next (ExecNext.completes _ (one h1) rfl)
  | ldStVx x =>
    simp only [exec, execLdStVx]
    exact .readV (hf _) fun h1 => .next (ExecNext.completes _ (one h1) rfl)
  | addI x =>
    simp only [exec, execAddI]
    exact .readIndex (hf _) fun h1 => .readV (hf _) fun h2 => .next (ExecNext.completes _ (two h1 h2) rfl)
  | ldF x =>
    simp only [exec, execLdF]
    exact .readV (hf _) fun h1 => .next (ExecNext.completes _ (one h1) rfl)
  | ldB x =>
    simp only [exec, execLdB]
    exact .readV (hf _) fun h1 => .withWritable hf fun h2 ha => .next (ExecNext.completes _ (two h1 h2) ⟨ha, rfl⟩)
  | storeRegs x =>
    simp only [exec, execStoreRegs]
    exact .withWritable hf fun h1 ha => .readRegs (fun _ => hf _) fun hr =>
      .next (ExecNext.completes _ (one h1) ⟨ha, hr, rfl⟩)
  | loadRegs x =>
    simp only [exec, execLoadRegs]
    exact .readBlock hf fun bs hl hi ha hc => .next (ExecNext.completes _ (one (hi (by omega))) ⟨bs, hl, ha, hc, rfl⟩)

end Sys2Proof.Machine
end

