-- ==== Sys2Proof/Laws/PerInstr.lean ====
section
/-!
SUPPORT. Statements made instruction by instruction. The family `RowPattern`: the encoding of an instruction has the
fixed bits of its row of the opcode map (30_encoding.md R86, spec/opcode_table.json "match" and "mask").
-/

namespace Sys2Proof.Laws.RowPattern

/-- The encoding agrees with its row of the opcode map on every bit the row fixes. -/
def Statement (i : Instr) : Prop := encode i &&& i.rowMask = i.rowMatch

/-- A bitwise and of two numbers cut at the same bit. -/
theorem and_cut (k a b m n : Nat) (hb : b < 2 ^ k) (hn : n < 2 ^ k) :
    (2 ^ k * a + b) &&& (2 ^ k * m + n) = 2 ^ k * (a &&& m) + (b &&& n) := by
  apply Nat.eq_of_testBit_eq
  intro j
  rw [Nat.testBit_and, Nat.testBit_two_pow_mul_add a hb, Nat.testBit_two_pow_mul_add m hn,
    Nat.testBit_two_pow_mul_add _ (lt_of_le_of_lt Nat.and_le_left hb), Nat.testBit_and, Nat.testBit_and]
  split <;> rfl

theorem and_top (w : Word) : (w &&& 0xF000#16).toNat = w.toNat / 0x1000 * 0x1000 := by
  have h := and_cut 12 (w.toNat / 0x1000) (w.toNat % 0x1000) 15 0 (by omega) (by omega)
  have := w.isLt
  have e : w.toNat / 0x1000 &&& 15 = w.toNat / 0x1000 := by
    rw [show (15 : Nat) = 2 ^ 4 - 1 from rfl, Nat.and_two_pow_sub_one_eq_mod]; omega
  rw [e, Nat.and_zero, show 2 ^ 12 * (w.toNat / 0x1000) + w.toNat % 0x1000 = w.toNat from Nat.div_add_mod ..] at h
  simpa [Nat.mul_comm] using h

theorem and_top_low (w : Word) : (w &&& 0xF00F#16).toNat = w.toNat / 0x1000 * 0x1000 + w.toNat % 0x10 := by
  have h := and_cut 12 (w.toNat / 0x1000) (w.toNat % 0x1000) 15 15 (by omega) (by omega)
  have := w.isLt
  have e : w.toNat / 0x1000 &&& 15 = w.toNat / 0x1000 := by
    rw [show (15 : Nat) = 2 ^ 4 - 1 from rfl, Nat.and_two_pow_sub_one_eq_mod]; omega
  have f : w.toNat % 0x1000 &&& 15 = w.toNat % 0x10 := by
    rw [show (15 : Nat) = 2 ^ 4 - 1 from rfl, Nat.and_two_pow_sub_one_eq_mod]; omega
  rw [e, f, show 2 ^ 12 * (w.toNat / 0x1000) + w.toNat % 0x1000 = w.toNat from Nat.div_add_mod ..] at h
  simpa [Nat.mul_comm] using h

theorem and_top_byte (w : Word) : (w &&& 0xF0FF#16).toNat = w.toNat / 0x1000 * 0x1000 + w.toNat % 0x100 := by
  have h := and_cut 12 (w.toNat / 0x1000) (w.toNat % 0x1000) 15 255 (by omega) (by omega)
  have := w.isLt
  have e : w.toNat / 0x1000 &&& 15 = w.toNat / 0x1000 := by
    rw [show (15 : Nat) = 2 ^ 4 - 1 from rfl, Nat.and_two_pow_sub_one_eq_mod]; omega
  have f : w.toNat % 0x1000 &&& 255 = w.toNat % 0x100 := by
    rw [show (255 : Nat) = 2 ^ 8 - 1 from rfl, Nat.and_two_pow_sub_one_eq_mod]; omega
  rw [e, f, show 2 ^ 12 * (w.toNat / 0x1000) + w.toNat % 0x1000 = w.toNat from Nat.div_add_mod ..] at h
  simpa [Nat.mul_comm] using h

theorem packNNN_row (op : BitVec 4) (nnn : Addr12) : packNNN op nnn &&& 0xF000#16 = packNNN op 0 := by
  have := nnn.isLt
  apply BitVec.eq_of_toNat_eq
  rw [and_top, packNNN_toNat, packNNN_toNat, show (0 : Addr12).toNat = 0 from rfl]; omega

theorem packXKK_row (op : BitVec 4) (x : Reg) (kk : Byte) : packXKK op x kk &&& 0xF000#16 = packXKK op 0 0 := by
  have := kk.isLt; have := x.isLt
  apply BitVec.eq_of_toNat_eq
  rw [and_top, packXKK_toNat, packXKK_toNat, show (0 : Byte).toNat = 0 from rfl, show (0 : Reg).val = 0 from rfl]; omega

theorem packXSS_row (op : BitVec 4) (x : Reg) (kk : Byte) : packXKK op x kk &&& 0xF0FF#16 = packXKK op 0 kk := by
  have := kk.isLt; have := x.isLt
  apply BitVec.eq_of_toNat_eq
  rw [and_top_byte, packXKK_toNat, packXKK_toNat, show (0 : Reg).val = 0 from rfl]; omega

theorem packXYN_row (op : BitVec 4) (x y : Reg) (n : Count) : packXYN op x y n &&& 0xF000#16 = packXYN op 0 0 0 := by
  have := n.isLt; have := x.isLt; have := y.isLt
  apply BitVec.eq_of_toNat_eq
  rw [and_top, packXYN_toNat, packXYN_toNat, show (0 : Reg).val = 0 from rfl]; omega

theorem packXYS_row (op : BitVec 4) (x y : Reg) (n : Count) : packXYN op x y n &&& 0xF00F#16 = packXYN op 0 0 n := by
  have := n.isLt; have := x.isLt; have := y.isLt
  apply BitVec.eq_of_toNat_eq
  rw [and_top_low, packXYN_toNat, packXYN_toNat, show (0 : Reg).val = 0 from rfl]; omega

theorem sys (nnn : Addr12) : Statement (.sys nnn) := (packNNN_row _ _).trans rfl
theorem cls : Statement .cls := rfl
theorem ret : Statement .ret := rfl
theorem jp (nnn : Addr12) : Statement (.jp nnn) := (packNNN_row _ _).trans rfl
theorem call (nnn : Addr12) : Statement (.call nnn) := (packNNN_row _ _).trans rfl
theorem seImm (x : Reg) (kk : Byte) : Statement (.seImm x kk) := (packXKK_row _ _ _).trans rfl
theorem sneImm (x : Reg) (kk : Byte) : Statement (.sneImm x kk) := (packXKK_row _ _ _).trans rfl
theorem seReg (x y : Reg) : Statement (.seReg x y) := (packXYN_row _ _ _ _).trans rfl
theorem ldImm (x : Reg) (kk : Byte) : Statement (.ldImm x kk) := (packXKK_row _ _ _).trans rfl
theorem addImm (x : Reg) (kk : Byte) : Statement (.addImm x kk) := (packXKK_row _ _ _).trans rfl
theorem ldReg (x y : Reg) : Statement (.ldReg x y) := (packXYS_row _ _ _ _).trans rfl
theorem or (x y : Reg) : Statement (.or x y) := (packXYS_row _ _ _ _).trans rfl
theorem and (x y : Reg) : Statement (.and x y) := (packXYS_row _ _ _ _).trans rfl
theorem xor (x y : Reg) : Statement (.xor x y) := (packXYS_row _ _ _ _).trans rfl
theorem addReg (x y : Reg) : Statement (.addReg x y) := (packXYS_row _ _ _ _).trans rfl
theorem subReg (x y : Reg) : Statement (.subReg x y) := (packXYS_row _ _ _ _).trans rfl
theorem shr (x y : Reg) : Statement (.shr x y) := (packXYS_row _ _ _ _).trans rfl
theorem subn (x y : Reg) : Statement (.subn x y) := (packXYS_row _ _ _ _).trans rfl
theorem shl (x y : Reg) : Statement (.shl x y) := (packXYS_row _ _ _ _).trans rfl
theorem sneReg (x y : Reg) : Statement (.sneReg x y) := (packXYS_row _ _ _ _).trans rfl
theorem ldI (nnn : Addr12) : Statement (.ldI nnn) := (packNNN_row _ _).trans rfl
theorem jpOff (nnn : Addr12) : Statement (.jpOff nnn) := (packNNN_row _ _).trans rfl
theorem rnd (x : Reg) (kk : Byte) : Statement (.rnd x kk) := (packXKK_row _ _ _).trans rfl
theorem drw (x y : Reg) (n : Count) : Statement (.drw x y n) := (packXYN_row _ _ _ _).trans rfl
theorem skp (x : Reg) : Statement (.skp x) := (packXSS_row _ _ _).trans rfl
theorem sknp (x : Reg) : Statement (.sknp x) := (packXSS_row _ _ _).trans rfl
theorem ldVxDt (x : Reg) : Statement (.ldVxDt x) := (packXSS_row _ _ _).trans rfl
theorem ldVxK (x : Reg) : Statement (.ldVxK x) := (packXSS_row _ _ _).trans rfl
theorem ldDtVx (x : Reg) : Statement (.ldDtVx x) := (packXSS_row _ _ _).trans rfl
theorem ldStVx (x : Reg) : Statement (.ldStVx x) := (packXSS_row _ _ _).trans rfl
theorem addI (x : Reg) : Statement (.addI x) := (packXSS_row _ _ _).trans rfl
theorem ldF (x : Reg) : Statement (.ldF x) := (packXSS_row _ _ _).trans rfl
theorem ldB (x : Reg) : Statement (.ldB x) := (packXSS_row _ _ _).trans rfl
theorem storeRegs (x : Reg) : Statement (.storeRegs x) := (packXSS_row _ _ _).trans rfl
theorem loadRegs (x : Reg) : Statement (.loadRegs x) := (packXSS_row _ _ _).trans rfl

end Sys2Proof.Laws.RowPattern
end

