-- ==== Sys2Proof/Laws/Step.lean ====
section
/-!
SUPPORT. What one step is in each phase, and what holds of every next state of the phases that call or fetch.
-/

namespace Sys2Proof.Machine

@[simp] theorem State.answers_clearCalls (s : State) : s.clearCalls.answers = s.answers := rfl
@[simp] theorem State.answers_issue (call : CapCall) (s : State) : (s.issue call).answers = s.answers := rfl
@[simp] theorem State.answers_decrementTimers (s : State) : s.decrementTimers.answers = s.answers := rfl
@[simp] theorem State.answers_setGate (g : SoundGate) (s : State) : (s.setGate g).answers = s.answers := rfl
@[simp] theorem State.answers_advance (s : State) : s.advance.answers = s.answers := rfl

@[simp] theorem onNext_next (f : State → State) (s : State) : onNext f (.next s) = .next (f s) := rfl
@[simp] theorem onNext_fault (f : State → State) (r : Fault) : onNext f (.fault r) = .fault r := rfl
@[simp] theorem onNext_refused (f : State → State) (r : Refusal) : onNext f (.refused r) = .refused r := rfl

theorem onNext_onNext (f g : State → State) (r : Result) : onNext f (onNext g r) = onNext (fun s => f (g s)) r := by
  cases r <;> rfl

/-- A next state of an adjusted result is an adjusted next state. -/
theorem onNext_eq_next {f : State → State} {r : Result} {t : State} (h : onNext f r = .next t) :
    ∃ u, r = .next u ∧ t = f u := by
  cases r with
  | next u => exact ⟨u, rfl, by simpa using h.symm⟩
  | fault _ => simp at h
  | refused _ => simp at h

theorem State.afterCycle_faulted {s : State} (h : s.phase = .faulted) : s.afterCycle = s := by
  simp [State.afterCycle, h]

theorem State.afterCycle_running {s : State} (h : s.phase ≠ .faulted) : s.afterCycle = s.setPhase .check := by
  simp [State.afterCycle, h]

/-- The address of the instruction a cycle executes is the one it was fetched from. -/
@[simp] theorem State.instrAddr_advance (s : State) : s.advance.instrAddr = s.pc := by
  simp [State.instrAddr, instrWidth]

/-! ## One step in each phase -/

theorem step_init {s : State} (h : s.phase = .init) : step s = onNext .nextAnswers (initPhase s.clearCalls) := by
  simp only [step, schedulerStep, runPhase, State.clearCalls_phase, h]

theorem step_check {s : State} (h : s.phase = .check) : step s = onNext .nextAnswers (checkPhase s.clearCalls) := by
  simp only [step, schedulerStep, runPhase, State.clearCalls_phase, h]

theorem step_service {s : State} (h : s.phase = .service) :
    step s = onNext .nextAnswers (servicePhase s.clearCalls) := by
  simp only [step, schedulerStep, runPhase, State.clearCalls_phase, h]

theorem step_execute {s : State} (h : s.phase = .execute) :
    step s = onNext .nextAnswers (executePhase s.clearCalls) := by
  simp only [step, schedulerStep, runPhase, State.clearCalls_phase, h]

theorem step_final {s : State} (h : s.phase = .final) : step s = onNext .nextAnswers (finalPhase s.clearCalls) := by
  simp only [step, schedulerStep, runPhase, State.clearCalls_phase, h]

/-- A fetch inside memory of two cells that hold values. -/
theorem fetch_held {s : State} {hi lo : Byte} (hr : s.pc.toNat + 1 < memSize) (h1 : s.cell s.pc.toNat = some hi)
    (h2 : s.cell (s.pc.toNat + 1) = some lo) (k : Word → Result) : fetch s k = k (wordOfBytes hi lo) := by
  unfold fetch
  rw [if_neg (by omega)]
  simp only [readCell, h1, h2]

theorem Ensures.fetch {P : State → Prop} {s : State} {k : Word → Result} (hf : ∀ f, P (s.enterFault (some s.pc) f))
    (hk : ∀ hi lo, s.pc.toNat + 1 < memSize → s.cell s.pc.toNat = some hi → s.cell (s.pc.toNat + 1) = some lo →
      Ensures P (k (wordOfBytes hi lo))) : Ensures P (fetch s k) := by
  unfold Machine.fetch Machine.readCell
  split
  · exact Ensures.raise (hf _)
  · split
    · split
      · exact hk _ _ (by omega) ‹_› ‹_›
      · exact Ensures.raise (hf _)
    · exact Ensures.raise (hf _)

/-- What a cycle can leave: a fault of the fetch, a fault of the decoder, or what the decoded instruction leaves. -/
theorem Ensures.executePhase {P : State → Prop} {s : State} (hf : ∀ f, P (s.enterFault (some s.pc) f))
    (hd : ∀ f, P (s.advance.enterFault (some s.pc) f))
    (hx : ∀ i t, s.pc.toNat + 1 < memSize → ExecNext i s.advance t → P t.afterCycle) :
    Ensures P (executePhase s) := by
  refine .fetch hf fun hi lo hr _ _ => .onNext ?_
  unfold decodeAndExecute
  split
  · exact fun t ht => hx _ t hr (exec_cases ht)
  · refine .raiseHere ?_
    rw [State.afterCycle_faulted rfl, State.instrAddr_advance]
    exact hd _

/-- What a service iteration can leave: a failed call after each of its requests, or its end with or without a tick. -/
theorem Ensures.servicePhase {P : State → Prop} {s : State}
    (hd : P ((s.issue .drawScreen).enterFault none (.capability .drawScreen)))
    (hu : ∀ timeout, P (((s.issue .drawScreen).issue (.update timeout)).enterFault none (.capability (.update timeout))))
    (hn : ∀ timeout, s.answers.tickDue = false →
      P (((s.issue .drawScreen).issue (.update timeout)).afterService s.answers))
    (hs : ∀ timeout gate, s.answers.tickDue = true →
      P ((((s.issue .drawScreen).issue (.update timeout)).decrementTimers.issue gate).enterFault none (.capability gate)))
    (ht : ∀ timeout call gate, s.answers.tickDue = true →
      P (((((s.issue .drawScreen).issue (.update timeout)).decrementTimers.issue call).setGate gate).afterService
        s.answers)) : Ensures P (servicePhase s) := by
  unfold Machine.servicePhase serviceIteration
  refine .request hd fun _ _ => .request (hu _) fun _ _ => ?_
  by_cases hdue : s.answers.tickDue = true
  · rw [if_pos hdue]
    exact .request (hs _ _ hdue) fun _ _ => .next (ht _ _ _ hdue)
  · rw [if_neg hdue]
    exact .next (hn _ (by simpa using hdue))

/-- A service iteration with no tick due. -/
theorem serviceIteration_noTick {a : Answers} (hd : a.drawScreen = .returns ()) (hu : a.update = .returns ())
    (ht : a.tickDue = false) (s : State) :
    serviceIteration a s =
      .next (((s.issue .drawScreen).issue (.update (serviceTimeout s.config))).afterService a) := by
  simp only [serviceIteration, hd, hu, ht, request_returns, Bool.false_eq_true, ↓reduceIte, State.issue_config]

/-- A service iteration up to the sound command of its tick: both timers are decremented, whatever the command answers. -/
theorem serviceIteration_atTick {a : Answers} (hd : a.drawScreen = .returns ()) (hu : a.update = .returns ())
    (ht : a.tickDue = true) (s : State) :
    serviceIteration a s =
      request none (gateCall (countDown s.st)) a.sound
        ((s.issue .drawScreen).issue (.update (serviceTimeout s.config))).decrementTimers
        fun _ t => .next ((t.setGate (gateFor t.st)).afterService a) := by
  simp only [serviceIteration, timerTick, hd, hu, ht, request_returns, ↓reduceIte, State.issue_config, State.issue_st,
    State.decrementTimers_st]

/-- A service iteration that takes a tick. -/
theorem serviceIteration_tick {a : Answers} (hd : a.drawScreen = .returns ()) (hu : a.update = .returns ())
    (ht : a.tickDue = true) (hs : a.sound = .returns ()) (s : State) :
    serviceIteration a s =
      .next ((((((s.issue .drawScreen).issue (.update (serviceTimeout s.config))).decrementTimers).issue
        (gateCall (countDown s.st))).setGate (gateFor (countDown s.st))).afterService a) := by
  rw [serviceIteration_atTick hd hu ht, hs, request_returns]
  simp only [State.issue_st, State.decrementTimers_st]

theorem State.afterService_cases (a : Answers) (s : State) :
    s.afterService a = s.setPhase .execute ∨ s.afterService a = s := by
  unfold State.afterService
  split
  · exact .inl rfl
  · exact .inr rfl

/-- INIT, CHECK and FINAL make one call and move on. -/
theorem Ensures.initPhase {P : State → Prop} {s : State}
    (hf : P ((s.issue .init).enterFault none (.capability .init))) (hk : P ((s.issue .init).setPhase .check)) :
    Ensures P (initPhase s) := .request hf fun _ _ => .next hk

theorem Ensures.checkPhase {P : State → Prop} {s : State}
    (hf : P ((s.issue .shouldClose).enterFault none (.capability .shouldClose)))
    (hk : ∀ close : Bool, P ((s.issue .shouldClose).setPhase (if close then .final else .service))) :
    Ensures P (checkPhase s) := .request hf fun close _ => .next (hk close)

theorem Ensures.finalPhase {P : State → Prop} {s : State}
    (hf : P ((s.issue .finalize).enterFault none (.capability .finalize)))
    (hk : P ((s.issue .finalize).setPhase .halted)) : Ensures P (finalPhase s) := .request hf fun _ _ => .next hk

end Sys2Proof.Machine
end

