-- ==== Sys2Proof/Tests/Slice0.lean ====
section
/-!
SUPPORT. The model's own tests: the checks of WellFormed, one word a constructor, one step a row of
spec/95_test_vectors.md, and for every statement a state and operands that meet its hypotheses. Expected values come from
the spec's tables, cited at each group.
-/

namespace Sys2Proof.Tests

open Sys2Proof Sys2Proof.Machine

/-! ## WellFormed refuses the two words that are not SYS (30_encoding.md R86 rows 2 and 3) -/

theorem test_sys_cls_word_illFormed : (Instr.sys 0x0E0).notClsWord = false := by decide
theorem test_sys_ret_word_illFormed : (Instr.sys 0x0EE).notRetWord = false := by decide
theorem test_illFormed_refused : (Instr.sys 0x0E0).wellFormed = false ∧ (Instr.sys 0x0EE).wellFormed = false := by
  decide
theorem test_sys_beside_wellFormed : (Instr.sys 0x0E1).wellFormed = true ∧ (Instr.sys 0x0EF).wellFormed = true := by
  decide

/-! ## One word a constructor, bit by bit from the patterns of R86 (95_test_vectors.md L2.1) -/

theorem test_decode_sys : decode 0b0000000100100011#16 = .ok (.sys 0x123) := by decide
theorem test_decode_cls : decode 0b0000000011100000#16 = .ok .cls := by decide
theorem test_decode_ret : decode 0b0000000011101110#16 = .ok .ret := by decide
theorem test_decode_jp : decode 0b0001101010111100#16 = .ok (.jp 0xABC) := by decide
theorem test_decode_call : decode 0b0010001100000000#16 = .ok (.call 0x300) := by decide
theorem test_decode_seImm : decode 0b0011101001000010#16 = .ok (.seImm 0xA 0x42) := by decide
theorem test_decode_sneImm : decode 0b0100101100000000#16 = .ok (.sneImm 0xB 0x00) := by decide
theorem test_decode_seReg : decode 0b0101000100100000#16 = .ok (.seReg 1 2) := by decide
theorem test_decode_ldImm : decode 0b0110000100000101#16 = .ok (.ldImm 1 0x05) := by decide
theorem test_decode_addImm : decode 0b0111111111111111#16 = .ok (.addImm 0xF 0xFF) := by decide
theorem test_decode_ldReg : decode 0b1000000100100000#16 = .ok (.ldReg 1 2) := by decide
theorem test_decode_or : decode 0b1000000100100001#16 = .ok (.or 1 2) := by decide
theorem test_decode_and : decode 0b1000000100100010#16 = .ok (.and 1 2) := by decide
theorem test_decode_xor : decode 0b1000000100100011#16 = .ok (.xor 1 2) := by decide
theorem test_decode_addReg : decode 0b1000000100100100#16 = .ok (.addReg 1 2) := by decide
theorem test_decode_subReg : decode 0b1000000100100101#16 = .ok (.subReg 1 2) := by decide
theorem test_decode_shr : decode 0b1000000100100110#16 = .ok (.shr 1 2) := by decide
theorem test_decode_subn : decode 0b1000000100100111#16 = .ok (.subn 1 2) := by decide
theorem test_decode_shl : decode 0b1000000100101110#16 = .ok (.shl 1 2) := by decide
theorem test_decode_sneReg : decode 0b1001000100100000#16 = .ok (.sneReg 1 2) := by decide
theorem test_decode_ldI : decode 0b1010001000010000#16 = .ok (.ldI 0x210) := by decide
theorem test_decode_jpOff : decode 0b1011000100100011#16 = .ok (.jpOff 0x123) := by decide
theorem test_decode_rnd : decode 0b1100001111111111#16 = .ok (.rnd 3 0xFF) := by decide
theorem test_decode_drw : decode 0b1101000100100101#16 = .ok (.drw 1 2 5) := by decide
theorem test_decode_skp : decode 0b1110000110011110#16 = .ok (.skp 1) := by decide
theorem test_decode_sknp : decode 0b1110000110100001#16 = .ok (.sknp 1) := by decide
theorem test_decode_ldVxDt : decode 0b1111000100000111#16 = .ok (.ldVxDt 1) := by decide
theorem test_decode_ldVxK : decode 0b1111000100001010#16 = .ok (.ldVxK 1) := by decide
theorem test_decode_ldDtVx : decode 0b1111000100010101#16 = .ok (.ldDtVx 1) := by decide
theorem test_decode_ldStVx : decode 0b1111000100011000#16 = .ok (.ldStVx 1) := by decide
theorem test_decode_addI : decode 0b1111000100011110#16 = .ok (.addI 1) := by decide
theorem test_decode_ldF : decode 0b1111000100101001#16 = .ok (.ldF 1) := by decide
theorem test_decode_ldB : decode 0b1111000100110011#16 = .ok (.ldB 1) := by decide
theorem test_decode_storeRegs : decode 0b1111000101010101#16 = .ok (.storeRegs 1) := by decide
theorem test_decode_loadRegs : decode 0b1111000101100101#16 = .ok (.loadRegs 1) := by decide

/-- L2.1: the words beside CLS and RET, the ignored low nibble of `5xy-`, and the extension words. -/
theorem test_decode_corners :
    decode 0x0000 = .ok (.sys 0x000) ∧ decode 0x00E1 = .ok (.sys 0x0E1) ∧ decode 0x00EF = .ok (.sys 0x0EF) ∧
      decode 0x0FFF = .ok (.sys 0xFFF) ∧ decode 0x512F = .ok (.seReg 1 2) ∧ decode 0xD120 = .ok (.drw 1 2 0) := by
  decide

/-- L1.6, L1.7 and L2.1: what fails. -/
theorem test_decode_failures :
    decode 0x8008 = .error (.aluSelector 0x8) ∧ decode 0x812F = .error (.aluSelector 0xF) ∧
      decode 0x90F1 = .error (.sneSelector 0x1) ∧ decode 0x912F = .error (.sneSelector 0xF) ∧
      decode 0xE000 = .error (.keySelector 0x00) ∧ decode 0xE1A0 = .error (.keySelector 0xA0) ∧
      decode 0xF099 = .error (.miscSelector 0x99) ∧ decode 0xF175 = .error (.miscSelector 0x75) := by decide

/-- A word in the opcode table's numbering, and fewer than two bytes. -/
theorem test_decodeTableWord :
    decodeTableWord 16 0x6105 = some (.ldImm 1 0x05) ∧ decodeTableWord 16 0x8008 = none ∧
      decodeBytes [0x61] = .error .truncated ∧ decodeBytes [0x61, 0x05, 0x71] = .ok (.ldImm 1 0x05, [0x71]) := by decide

/-! ## One step a row of 95_test_vectors.md L2.2 to L2.9

`at_ pc s w` is the state one instruction cycle leaves that runs the word `w` at `pc`. -/

/-- The state after one step that fetches `w` at `pc`. -/
def at_ (pc : Word) (s : State) (w : Word) : State :=
  match step ((s.setPc pc).placeWord w) with
  | .next t => t
  | _ => s

/-- The state right after reset, with V registers set from a list of (index, value). -/
def withV (vs : List (Reg × Byte)) : State := vs.foldl (fun s p => s.setV p.1 p.2) State.reset

/-- The fault a state records. -/
def faultOf (s : State) : Option (FaultKind × Option Word) := s.faultRecord.map fun r => (r.kind, r.addr)

theorem test_fetch_bigEndian : (at_ 0x200 State.reset 0x1234).pc = 0x234 := by decide
theorem test_fetch_odd :
    (at_ 0x201 State.reset 0x6007).v[0] = 7 ∧ (at_ 0x201 State.reset 0x6007).pc = 0x203 := by
  decide
theorem test_fetch_range :
    (match step { State.reset with pc := 0xFFF, phase := .execute } with
      | .next t => (t.pc, t.phase, faultOf t)
      | _ => (0, .init, none)) = (0xFFF, .faulted, some (.fetchRange 0xFFF, some 0xFFF)) := by decide
theorem test_decode_fault :
    faultOf (at_ 0x200 State.reset 0x8008) = some (.decode 0x8008, some 0x200) ∧
      (at_ 0x200 State.reset 0x8008).pc = 0x202 ∧ (at_ 0x200 State.reset 0x8008).phase = .faulted := by
  decide
theorem test_sys :
    (at_ 0x200 State.reset 0x0123).pc = 0x202 ∧ (at_ 0x200 State.reset 0x0123).phase = .check := by
  decide
theorem test_jp : (at_ 0x200 State.reset 0x1234).pc = 0x234 ∧ (at_ 0x200 State.reset 0x1FFF).pc = 0xFFF := by decide
theorem test_call :
    (at_ 0x400 (State.reset.setSp 15) 0x2300).stack[15] = 0x402 ∧ (at_ 0x400 (State.reset.setSp 15) 0x2300).sp = 16 ∧
      (at_ 0x400 (State.reset.setSp 15) 0x2300).pc = 0x300 := by
  decide
theorem test_call_overflow :
    faultOf (at_ 0x400 (State.reset.setSp 16) 0x2300) = some (.stackOverflow 16, some 0x400) := by
  decide
theorem test_ret :
    (at_ 0x200 ((State.reset.setStack 1 0x456).setSp 2) 0x00EE).sp = 1 ∧
      (at_ 0x200 ((State.reset.setStack 1 0x456).setSp 2) 0x00EE).pc = 0x456 ∧
      (at_ 0x200 ((State.reset.setStack 1 0x456).setSp 2) 0x00EE).stack[1] = 0x456 := by
  decide
theorem test_ret_underflow : faultOf (at_ 0x300 State.reset 0x00EE) = some (.stackUnderflow 0, some 0x300) := by decide
theorem test_jpOff :
    (at_ 0x200 (withV [(0, 0x20)]) 0xBFF0).pc = 0x1010 ∧ (at_ 0x200 (withV [(1, 0x55)]) 0xB300).pc = 0x300 := by
  decide
theorem test_seImm :
    (at_ 0x200 (withV [(3, 0x42)]) 0x3342).pc = 0x204 ∧ (at_ 0x200 (withV [(3, 0x41)]) 0x3342).pc = 0x202 := by
  decide
theorem test_sneImm :
    (at_ 0x200 (withV [(3, 0x42)]) 0x4342).pc = 0x202 ∧ (at_ 0x200 (withV [(3, 0x00)]) 0x4342).pc = 0x204 := by
  decide
theorem test_seReg :
    (at_ 0x200 (withV [(1, 7), (2, 7)]) 0x512F).pc = 0x204 ∧ (at_ 0x200 (withV [(1, 7), (2, 8)]) 0x5120).pc = 0x202 := by
  decide
theorem test_sneReg :
    (at_ 0x200 (withV [(1, 7), (2, 8)]) 0x9120).pc = 0x204 ∧ (at_ 0x200 (withV [(1, 7)]) 0x9110).pc = 0x202 := by
  decide
theorem test_ldImm : (at_ 0x200 State.reset 0x6105).v[1] = 0x05 ∧ (at_ 0x200 State.reset 0x6105).pc = 0x202 := by decide
theorem test_addImm :
    (at_ 0x200 (withV [(1, 0xFF), (15, 0x33)]) 0x7101).v[1] = 0x00 ∧
      (at_ 0x200 (withV [(1, 0xFF), (15, 0x33)]) 0x7101).v[15] = 0x33 := by
  decide
theorem test_ldReg : (at_ 0x200 (withV [(2, 0x33)]) 0x8120).v[1] = 0x33 := by decide
theorem test_or :
    (at_ 0x200 (withV [(1, 0x0F), (2, 0xF0), (15, 0x55)]) 0x8121).v[1] = 0xFF ∧
      (at_ 0x200 (withV [(1, 0x0F), (2, 0xF0), (15, 0x55)]) 0x8121).v[15] = 0x55 := by
  decide
theorem test_and : (at_ 0x200 (withV [(1, 0x3C), (2, 0x0F)]) 0x8122).v[1] = 0x0C := by decide
theorem test_xor :
    (at_ 0x200 (withV [(1, 0x3C), (2, 0x0F)]) 0x8123).v[1] = 0x33 ∧ (at_ 0x200 (withV [(3, 0x5A)]) 0x8333).v[3] = 0 := by
  decide
theorem test_addReg :
    (at_ 0x200 (withV [(1, 200), (2, 100)]) 0x8124).v[1] = 44 ∧
      (at_ 0x200 (withV [(1, 200), (2, 100)]) 0x8124).v[15] = 1 := by
  decide
theorem test_subReg :
    (at_ 0x200 (withV [(1, 3), (2, 10)]) 0x8125).v[1] = 0xF9 ∧
      (at_ 0x200 (withV [(1, 3), (2, 10)]) 0x8125).v[15] = 0 := by
  decide
theorem test_subReg_2 :
    (at_ 0x200 (withV [(1, 5), (2, 5)]) 0x8125).v[1] = 0 ∧
      (at_ 0x200 (withV [(1, 5), (2, 5)]) 0x8125).v[15] = 0 := by
  decide
theorem test_shr :
    (at_ 0x200 (withV [(1, 0x05), (2, 0xFF)]) 0x8126).v[1] = 0x02 ∧
      (at_ 0x200 (withV [(1, 0x05), (2, 0xFF)]) 0x8126).v[15] = 1 := by
  decide
theorem test_subn :
    (at_ 0x200 (withV [(1, 3), (2, 10)]) 0x8127).v[1] = 7 ∧
      (at_ 0x200 (withV [(1, 3), (2, 10)]) 0x8127).v[15] = 1 := by
  decide
theorem test_shl :
    (at_ 0x200 (withV [(1, 0x81), (2, 0xFF)]) 0x812E).v[1] = 0x02 ∧
      (at_ 0x200 (withV [(1, 0x81), (2, 0xFF)]) 0x812E).v[15] = 1 := by
  decide
theorem test_add_vf_last :
    (at_ 0x200 (withV [(15, 0xFF), (1, 0x01)]) 0x8F14).v[15] = 1 ∧
      (at_ 0x200 { withV [(15, 0xFF), (1, 0x01)] with
        config := { Config.default with arithFlagLast := false } } 0x8F14).v[15] = 0 := by
  decide
theorem test_shr_vf_first :
    (at_ 0x200 (withV [(15, 0x03)]) 0x8F06).v[15] = 0 ∧
      (at_ 0x200 { withV [(15, 0x03)] with
        config := { Config.default with shiftFlagFirst := false } } 0x8F06).v[15] = 1 := by
  decide
theorem test_shl_vf_first :
    (at_ 0x200 (withV [(15, 0x80)]) 0x8F0E).v[15] = 2 ∧
      (at_ 0x200 { withV [(15, 0x80)] with
        config := { Config.default with shiftFlagFirst := false } } 0x8F0E).v[15] = 1 := by
  decide
theorem test_rnd :
    (at_ 0x200 { State.reset with inputs := [{ quietAnswers with draw8 := 0x5A }] } 0xC30F).v[3] = 0x0A := by
  decide
theorem test_ldI : (at_ 0x200 State.reset 0xA210).index = 0x210 := by decide
theorem test_addI :
    (at_ 0x200 ((withV [(2, 0x01), (15, 0x44)]).setIndex 0xFFFF) 0xF21E).index = 0x0000 ∧
      (at_ 0x200 ((withV [(2, 0x01), (15, 0x44)]).setIndex 0xFFF) 0xF21E).index = 0x1000 ∧
      (at_ 0x200 ((withV [(2, 0x01), (15, 0x44)]).setIndex 0xFFF) 0xF21E).v[15] = 0x44 := by
  decide
theorem test_ldF :
    (at_ 0x200 (withV [(0, 0x1A)]) 0xF029).index = 0x032 ∧ (at_ 0x200 (withV [(0, 0xFF)]) 0xF029).index = 0x04B := by
  decide
theorem test_ldB :
    [0x300, 0x301, 0x302, 0x303].map (at_ 0x200 ((withV [(0, 156)]).setIndex 0x300) 0xF033).cell =
      [some 1, some 5, some 6, some 0] := by
  decide
theorem test_ldB_glyph :
    faultOf (at_ 0x200 (State.reset.setIndex 0x04E) 0xF033) = some (.glyphWrite 0x04E, some 0x200) := by
  decide
theorem test_storeRegs :
    [0x400, 0x401, 0x402, 0x403].map
      (at_ 0x200 ((withV [(0, 1), (1, 2), (2, 3), (3, 4)]).setIndex 0x400) 0xF255).cell =
      [some 1, some 2, some 3, some 0] := by
  decide
theorem test_storeRegs_past :
    faultOf (at_ 0x200 (State.reset.setIndex 0xFF1) 0xFF55) = some (.memRange 0x1000, some 0x200) ∧
      (at_ 0x200 (State.reset.setIndex 0xFF1) 0xFF55).cell 0xFF1 = some 0 := by
  decide
theorem test_loadRegs :
    (at_ 0x200 (State.reset.setIndex 0) 0xFF65).v.toList =
      [0xF0, 0x90, 0x90, 0x90, 0xF0, 0x20, 0x60, 0x20, 0x20, 0x70, 0xF0, 0x10, 0xF0, 0x80, 0xF0, 0xF0] := by
  decide
theorem test_loadRegs_past :
    faultOf (at_ 0x200 (State.reset.setIndex 0x1000) 0xF065) = some (.memRange 0x1000, some 0x200) := by
  decide
theorem test_cls :
    (at_ 0x200 ({ withV [(15, 7)] with pix := ⟨0xFFFF⟩ }) 0x00E0).pix = ⟨0⟩ ∧
      (at_ 0x200 ({ withV [(15, 7)] with pix := ⟨0xFFFF⟩ }) 0x00E0).v[15] = 7 := by
  decide
theorem test_drw_wraps :
    (at_ 0x200 (((withV [(0, 63)]).setIndex 0x300).setCell 0x300 0xC0) 0xD011).pixel 63 0 = true ∧
      (at_ 0x200 (((withV [(0, 63)]).setIndex 0x300).setCell 0x300 0xC0) 0xD011).pixel 0 0 = true ∧
      (at_ 0x200 (((withV [(0, 63)]).setIndex 0x300).setCell 0x300 0xC0) 0xD011).v[15] = 0 := by
  decide
theorem test_drw_collides :
    (at_ 0x200 { ((State.reset.setIndex 0x300).setCell 0x300 0xFF) with pix := ⟨8⟩ } 0xD011).pix = ⟨0xF7⟩ ∧
      (at_ 0x200 { ((State.reset.setIndex 0x300).setCell 0x300 0xFF) with pix := ⟨8⟩ } 0xD011).v[15] = 1 := by
  decide
theorem test_skp :
    (at_ 0x200 { withV [(5, 0x0A)] with inputs := [{ quietAnswers with keys := .returns 0x0400 }] } 0xE59E).pc = 0x204 ∧
      (at_ 0x200 (withV [(5, 0x0A)]) 0xE59E).pc = 0x202 := by
  decide
theorem test_skp_range :
    faultOf (at_ 0x200 (withV [(5, 0x10)]) 0xE59E) = some (.keyRange 0x10, some 0x200) ∧
      (at_ 0x200 (withV [(5, 0x10)]) 0xE59E).calls = [] := by
  decide
theorem test_sknp :
    (at_ 0x200 (withV [(5, 0x0A)]) 0xE5A1).pc = 0x204 ∧
      (at_ 0x200 (withV [(5, 0x0A)]) 0xE5A1).calls = [.isKeyPressed 0xA] := by
  decide
theorem test_ldVxDt : (at_ 0x200 (State.reset.setDt 0x3C) 0xF307).v[3] = 0x3C := by decide
theorem test_ldVxK :
    (at_ 0x200 { State.reset with inputs := [{ quietAnswers with waitForKey := .returns (.key 7) }] } 0xF30A).v[3] = 7 ∧
      (at_ 0x200 { State.reset with inputs := [{ quietAnswers with waitForKey := .returns (.key 7) }] } 0xF30A).pc = 0x202 := by
  decide
theorem test_ldDtVx : (at_ 0x200 (withV [(0, 3)]) 0xF015).dt = 3 := by decide
theorem test_ldStVx :
    (at_ 0x200 (withV [(0, 0x10)]) 0xF018).st = 0x10 ∧ (at_ 0x200 (withV [(0, 0x10)]) 0xF018).calls = [] := by
  decide

/-- L2.9: the timers and the call of one tick, for a row of the table. -/
def tick (dt st : Byte) : Byte × Byte × Option CapCall :=
  match step { State.reset with
      phase := .service, dt := dt, st := st, inputs := [{ quietAnswers with tickDue := true }] } with
  | .next t => (t.dt, t.st, t.calls.getLast?)
  | _ => (0, 0, none)

theorem test_ticks :
    tick 0 0 = (0, 0, some .soundPause) ∧ tick 1 0 = (0, 0, some .soundPause) ∧
      tick 0x3C 2 = (0x3B, 1, some .soundResume) ∧ tick 5 1 = (4, 0, some .soundPause) ∧
      tick 0xFF 0xFF = (0xFE, 0xFE, some .soundResume) := by decide

/-- R251 (95_test_vectors.md P6's image): an image lies at 0x200 with the glyph table below it. -/
theorem test_boot :
    (match boot Config.default [0x22, 0x00] (.returns ()) (.returns ()) [] with
      | .next s => [0x000, 0x04F, 0x200, 0x201, 0x202].map s.cell
      | _ => []) = [some 0xF0, some 0x80, some 0x22, some 0x00, some 0x00] := by decide

/-- R201 row 8 and R252: a `height()` that fails, and a `W` of 0. -/
theorem test_boot_stops :
    (match boot Config.default [] (.returns ()) .fails [] with
      | .next s => (s.phase, faultOf s)
      | _ => (.init, none)) = (.faulted, some (.capability .height, none)) ∧
      (match boot { Config.default with width := 0 } [] (.returns ()) (.returns ()) [] with
        | .refused r => some r
        | _ => none) = some .illegalConfiguration := by decide

/-! ## Witnesses: for every statement with hypotheses, states and operands that meet them, clause by clause at the bounds

`reset` stands for a state under the default parameters, `bare` for one under `RESET_POLICY` = `Unwritten`. -/

/-- Right after reset under `RESET_POLICY` = `Unwritten`. -/
def bare : State := State.resetWith { Config.default with resetPolicy := .unwritten }

/-- Reset with other answers for the first step. -/
def answering (a : Answers) : State := { State.reset with inputs := [a] }

/-- A state about to fetch the word 0x6105 from the last two cells. -/
def lastWord : State := { State.reset.setCells 0xFFE [0x61, 0x05] with pc := 0xFFE, phase := .execute }

/-- A state in mid-run that meets the invariant. -/
def running : State := { State.reset with pc := 0x10FE, phase := .check }

theorem witness_DecodeInvertsEncode :
    (Instr.sys 0xFFF).wellFormed = true ∧ (Instr.drw 15 15 15).wellFormed = true := by decide

theorem witness_EncodeInvertsDecode :
    decode 0x512F = .ok (.seReg 1 2) ∧ 0x512F#16 &&& 0xFFF0#16 = 0x5120#16 ∧ decode 0xFF65 = .ok (.loadRegs 15) := by
  decide

theorem witness_StepRunsDecodedInstruction :
    lastWord.phase = .execute ∧ lastWord.pc.toNat + 1 ≤ 0xFFF ∧ lastWord.cell lastWord.pc.toNat = some 0x61 ∧
      lastWord.cell (lastWord.pc.toNat + 1) = some 0x05 ∧ decode (0x61#8 ++ 0x05#8) = .ok (.ldImm 1 0x05) := by decide

theorem witness_FetchAndDecodeFaults_range :
    0xFFF < ({ State.reset with pc := 0xFFF, phase := .execute } : State).pc.toNat + 1 := by decide

theorem witness_FetchAndDecodeFaults_unwritten :
    bare.pc.toNat + 1 ≤ 0xFFF ∧ bare.cell 0x200 = none ∧ (bare.setCell 0x200 0x61).cell 0x201 = none ∧
      (bare.setCell 0x200 0x61).cell 0x200 ≠ none := by decide

theorem witness_FetchAndDecodeFaults_decode :
    (State.reset.setCells 0x200 [0x80, 0x08]).cell 0x200 = some 0x80 ∧
      (State.reset.setCells 0x200 [0x80, 0x08]).cell 0x201 = some 0x08 ∧
      decode (0x80#8 ++ 0x08#8) = .error (.aluSelector 0x8) := by decide

theorem witness_FaultIsRecordedAndFatal :
    ∃ s t, step s = .next t ∧ s.phase ≠ .faulted ∧ t.phase = .faulted ∧ s.phase = .execute :=
  ⟨{ State.reset with pc := 0xFFF, phase := .execute }, _, rfl, by decide, by decide, rfl⟩

theorem witness_FaultsArePrecise :
    ∃ t, exec .ret State.reset = .next t ∧ State.reset.phase ≠ .faulted ∧ t.phase = .faulted :=
  ⟨_, rfl, by decide, rfl⟩

theorem witness_FaultsArePrecise_call :
    ∃ t, exec (.skp 0) (answering { quietAnswers with keys := .fails }) = .next t ∧ t.phase = .faulted ∧
      t.calls = [.width, .height, .isKeyPressed 0] := ⟨_, rfl, rfl, rfl⟩

theorem witness_UnwrittenOperandFaults :
    ((Instr.addReg 1 2).firstReads Config.default).find?
      (fun it => decide (it ∈ ({ State.reset with blank := [.v 2] } : State).blank)) = some (.v 2) := by decide

theorem witness_UnwrittenCellFaults :
    ∃ s : State, (Instr.loadRegs 1).Readable s ∧ (Instr.drw 3 4 2).Readable s ∧ s.index.toNat + 2 ≤ 0x1000 ∧
      s.cell (s.index.toNat + 1) = none ∧ ∀ j < 1, s.cell (s.index.toNat + j) ≠ none :=
  ⟨{ bare.setCell 0xFFE 7 with index := 0xFFE, blank := [] }, by decide, by decide, by decide, by decide, by decide⟩

theorem running_inv : Inv running where
  configLegal := by decide
  memWf := by decide
  glyphsKept := by decide
  spRange := by decide
  stackRange := by decide
  pcRange := by decide
  pixRange := Nat.two_pow_pos _
  recordIff := by decide
  zeroFilled := fun _ => rfl
  stackFilled := by decide

theorem witness_ZeroPolicyNeverUnwritten :
    Inv running ∧ running.config.resetPolicy = .zero ∧ ∃ t, step running = .next t := ⟨running_inv, rfl, _, rfl⟩

theorem witness_StepKeepsInv : Inv running ∧ ∃ t, step running = .next t := ⟨running_inv, _, rfl⟩

theorem witness_SysIsNoOperation :
    (0x0FFF#16).toNat < 0x1000 ∧ 0x0FFF#16 ≠ 0x00E0 ∧ 0x0FFF#16 ≠ 0x00EE ∧ 0x00E1#16 ≠ 0x00E0 := by decide

/-- The registers and slots that the instructions read hold a value (the hypotheses of most statements on instructions). -/
theorem witness_held :
    (∀ x : Reg, Item.v x ∉ State.reset.blank) ∧ Item.index ∉ State.reset.blank ∧
      (∀ j : Fin 16, Item.stack j ∉ State.reset.blank) ∧ ∀ x : Reg, Item.v x ∉ (bare.setV x 0).blank := by decide

theorem witness_JumpsOverwritePc : Item.v State.reset.config.jumpOffsetReg ∉ State.reset.blank := by decide

theorem witness_CallPushesAndJumps : (State.reset.setSp 15).sp.toNat < 16 ∧ 16 ≤ (State.reset.setSp 16).sp.toNat := by
  decide

theorem witness_ReturnPops :
    (State.reset.setSp 16).sp.toNat = (15 : Fin 16).val + 1 ∧ Item.stack 15 ∉ (State.reset.setSp 16).blank ∧
      Item.stack 0 ∈ (bare.setSp 1).blank ∧ State.reset.sp.toNat = 0 ∧ 16 < (State.reset.setSp 17).sp.toNat := by decide

theorem witness_CallThenReturnRestoresPc : (State.reset.setSp 15).sp.toNat < 16 := by decide
theorem witness_RegisterSkips : Item.v 15 ∉ State.reset.blank ∧ Item.v 0 ∉ State.reset.blank := by decide
theorem witness_RegisterLoads : Item.v 15 ∉ State.reset.blank := by decide
theorem witness_AddImmediateWraps : Item.v 15 ∉ State.reset.blank := by decide
theorem witness_BitwiseOperations : Item.v 15 ∉ State.reset.blank ∧ Item.v 1 ∉ State.reset.blank := by decide

theorem witness_AddSetsCarry :
    Item.v 15 ∉ State.reset.blank ∧ Item.v 1 ∉ State.reset.blank ∧ State.reset.config.arithFlagLast = true := by decide

theorem witness_SubtractsSetNoBorrow :
    Item.v 15 ∉ State.reset.blank ∧ ∀ i ∈ [Instr.subReg 15 1, .subn 15 1], ∃ a b,
      (i = .subReg 15 1 ∧ a = State.reset.v[15] ∧ b = State.reset.v[1]) ∨
        (i = .subn 15 1 ∧ a = State.reset.v[1] ∧ b = State.reset.v[15]) := by
  refine ⟨by decide, fun i hi => ?_⟩
  rcases List.mem_cons.1 hi with rfl | hi
  · exact ⟨_, _, .inl ⟨rfl, rfl, rfl⟩⟩
  · rw [List.mem_singleton.1 hi]
    exact ⟨_, _, .inr ⟨rfl, rfl, rfl⟩⟩

theorem witness_ShiftRightSetsDroppedBit : Item.v 15 ∉ State.reset.blank ∧ Item.v 1 ∉ State.reset.blank := by decide
theorem witness_ShiftLeftSetsHighBitTest : Item.v 15 ∉ State.reset.blank ∧ Item.v 1 ∉ State.reset.blank := by decide
theorem witness_IndexInstructions : Item.v 15 ∉ State.reset.blank ∧ Item.index ∉ State.reset.blank := by decide

theorem witness_BcdStoresDigits :
    Item.v 0 ∉ State.reset.blank ∧ (State.reset.setIndex 0xFFD).index.toNat + 2 ≤ 0xFFF ∧
      (0x50 ≤ (State.reset.setIndex 0x50).index.toNat) ∧
      ({ State.reset with config := { Config.default with glyphWritePolicy := .write } } : State).config.glyphWritePolicy
        = .write := by decide

theorem witness_BlockStoreCopiesRegisters :
    (State.reset.setIndex 0xFF0).index.toNat + (15 : Reg).val ≤ 0xFFF ∧
      (∀ r ≤ (15 : Reg), Item.v r ∉ (State.reset.setIndex 0xFF0).blank) ∧
      Item.index ∉ (bare.setIndex 0xFF0).blank ∧ Item.v 0 ∈ (bare.setIndex 0xFF0).blank := by decide

theorem witness_BlockLoadCopiesCells :
    (State.reset.setIndex 0xFF0).index.toNat + (15 : Reg).val ≤ 0xFFF ∧
      ∀ r ≤ (15 : Reg), (State.reset.setIndex 0xFF0).cell ((State.reset.setIndex 0xFF0).index.toNat + r.val) = some 0 := by
  decide

theorem witness_BlockStoreThenLoadRestores :
    ∃ t, exec (.storeRegs 15) (State.reset.setIndex 0xFF0) = .next t ∧ t.phase ≠ .faulted := ⟨_, rfl, by decide⟩

theorem witness_AccessPastMemoryFaults :
    (∀ i ∈ [Instr.ldB 0, .storeRegs 15, .loadRegs 0, .drw 0 1 4], i.Readable (State.reset.setIndex 0xFFD)) ∧
      0xFFF < (State.reset.setIndex 0xFFE).index.toNat + (3 - 1) ∧
      0xFFF < (State.reset.setIndex 0xFF1).index.toNat + ((15 : Reg).val + 1 - 1) ∧
      0xFFF < (State.reset.setIndex 0x1000).index.toNat + ((0 : Reg).val + 1 - 1) ∧
      0xFFF < (State.reset.setIndex 0xFFD).index.toNat + ((4 : Count).val - 1) := by decide

theorem witness_GlyphStoreFaults :
    (Instr.ldB 0).Readable (State.reset.setIndex 0x4F) ∧ (Instr.storeRegs 15).Readable (State.reset.setIndex 0x4F) ∧
      (State.reset.setIndex 0x4F).index.toNat < 0x50 ∧ State.reset.config.glyphWritePolicy = .fault := by decide

theorem witness_ClearScreenClearsAll : 63 < State.reset.config.width ∧ 31 < State.reset.config.height := by decide

theorem witness_DrawTogglesSprite :
    State.reset.config.Legal ∧ (Instr.drw 15 0 1).Readable (State.reset.setIndex 0xFFF) ∧
      (State.reset.setIndex 0xFFF).index.toNat + 1 ≤ 0x1000 ∧ (State.reset.setIndex 0xFFF).cell 0xFFF = some 0 := by decide

theorem witness_DrawTogglesSprite_noRows :
    (Instr.drw 0 1 0).Readable ({ State.reset with index := 0xFFFF, blank := [.index] } : State) ∧
      ([] : List Byte).length = (0 : Count).val := by decide

theorem witness_DrawTwiceRestores :
    ∃ t, exec (.drw 0 1 5) State.reset = .next t ∧ t.phase ≠ .faulted ∧ t.v[0] = State.reset.v[0] ∧
      t.v[1] = State.reset.v[1] ∧ State.reset.pix.bits = 0 ∧ 8 ≤ State.reset.config.width ∧
      (5 : Count).val ≤ State.reset.config.height ∧ t.pix ≠ State.reset.pix :=
  ⟨_, rfl, by decide, by decide, by decide, rfl, by decide, by decide, by decide⟩

theorem witness_DrawTwiceRestores_empty :
    ∃ t, exec (.drw 0 1 0) State.reset = .next t ∧ t.phase ≠ .faulted ∧ t.pix = State.reset.pix :=
  ⟨_, rfl, by decide, rfl⟩

theorem witness_TimerAccess : Item.v 15 ∉ State.reset.blank := by decide

theorem witness_KeySkips :
    (withV [(5, 0x0F)]).v[5].toNat = (15 : Key).val ∧ (withV [(5, 0x0F)]).answers.keys = .returns 0 ∧
      0x0F < (withV [(5, 0x10)]).v[5].toNat ∧
      (answering { quietAnswers with keys := .fails }).answers.keys = .fails := by decide

theorem witness_BlockingKeyRead :
    (answering { quietAnswers with waitForKey := .returns .interrupted }).answers.waitForKey = .returns .interrupted ∧
      (answering { quietAnswers with waitForKey := .returns (.key 15) }).answers.waitForKey = .returns (.key 15) ∧
      (answering { quietAnswers with waitForKey := .fails }).answers.waitForKey = .fails ∧
      (answering { quietAnswers with waitForKey := .noAnswer }).answers.waitForKey = .noAnswer := by decide

theorem witness_RegisterFrame :
    ∃ t, exec (.addReg 1 2) State.reset = .next t ∧ 3 ∉ (Instr.addReg 1 2).namedDest ∧
      ¬((3 : Reg) = 15 ∧ (Instr.addReg 1 2).writesFlag = true) := ⟨_, rfl, by decide, by decide⟩

theorem witness_FlagRegisterDiscipline_written :
    ∃ t, exec (.addReg 1 2) (withV [(1, 0xFF), (2, 1)]) = .next t ∧ t.v[15] ≠ (withV [(1, 0xFF), (2, 1)]).v[15] ∧
      (Instr.addReg 1 2).writesFlag = true ∧ t.phase ≠ .faulted ∧ 15 ∉ (Instr.addReg 1 2).namedDest :=
  ⟨_, rfl, by decide, by decide, by decide, by decide⟩

theorem witness_FlagRegisterDiscipline_unread : 15 ∉ (Instr.addReg 1 2).sourceRegs State.reset.config := by decide

theorem witness_MemoryFrame :
    ∃ t, exec (.ldB 0) (State.reset.setIndex 0x300) = .next t ∧ t.phase ≠ .faulted ∧
      0x2FF ∉ (Instr.ldB 0).storedCells (State.reset.setIndex 0x300) ∧
      0x303 ∉ (Instr.ldB 0).storedCells (State.reset.setIndex 0x300) := ⟨_, rfl, by decide, by decide, by decide⟩

theorem witness_SpecialRegisterFrame_call :
    ∃ t, exec (.call 0x300) State.reset = .next t ∧ t.pc ≠ State.reset.pc ∧ t.sp ≠ State.reset.sp ∧
      t.stack[0] ≠ State.reset.stack[0] := ⟨_, rfl, by decide, by decide, by decide⟩

theorem witness_SpecialRegisterFrame_index :
    ∃ t, exec (.ldI 0x300) State.reset = .next t ∧ t.index ≠ State.reset.index := ⟨_, rfl, by decide⟩

theorem witness_SpecialRegisterFrame_timers :
    (∃ t, exec (.ldDtVx 0) (withV [(0, 3)]) = .next t ∧ t.dt ≠ (withV [(0, 3)]).dt) ∧
      ∃ t, exec (.ldStVx 0) (withV [(0, 3)]) = .next t ∧ t.st ≠ (withV [(0, 3)]).st :=
  ⟨⟨_, rfl, by decide⟩, _, rfl, by decide⟩

theorem witness_SpecialRegisterFrame_pixels :
    ∃ t, exec (.drw 0 1 5) State.reset = .next t ∧ t.pix ≠ State.reset.pix := ⟨_, rfl, by decide⟩

theorem witness_ControlStateFrame :
    ∃ t, exec (.ldImm 0 0) bare = .next t ∧ Item.index ∈ t.blank := ⟨_, rfl, by decide⟩

theorem witness_SoundTimerIsNeverRead : ∀ x, Instr.cls ≠ .ldStVx x := by simp

theorem witness_LifecyclePhases :
    (answering quietAnswers).answers.init = .returns () ∧
      ({ State.reset with phase := .check } : State).answers.shouldClose = .returns false ∧
      ({ State.reset with phase := .final } : State).answers.finalize = .returns () := by decide

theorem witness_LifecyclePhases_fails :
    let s := answering { quietAnswers with init := .fails, shouldClose := .fails, finalize := .fails }
    s.answers.init = .fails ∧ s.answers.shouldClose = .fails ∧ s.answers.finalize = .fails := by decide

theorem witness_LifecyclePhases_noAnswer :
    let s := answering { quietAnswers with init := .noAnswer, shouldClose := .noAnswer, finalize := .noAnswer }
    s.answers.init = .noAnswer ∧ s.answers.shouldClose = .noAnswer ∧ s.answers.finalize = .noAnswer := by decide

theorem witness_ServiceIteration :
    let s := { answering { quietAnswers with tickDue := true } with phase := .service }
    s.answers.drawScreen = .returns () ∧ s.answers.update = .returns () ∧ s.answers.sound = .returns () ∧
      (answering quietAnswers).answers.tickDue = false := by decide

theorem witness_ServiceCallsThatFail :
    (answering { quietAnswers with drawScreen := .fails }).answers.drawScreen = .fails ∧
      (answering { quietAnswers with drawScreen := .noAnswer }).answers.drawScreen = .noAnswer ∧
      (answering { quietAnswers with update := .fails }).answers.update = .fails ∧
      (answering { quietAnswers with update := .noAnswer }).answers.update = .noAnswer := by decide

theorem witness_ServiceCallsThatFail_sound : ∀ sound ∈ [Response.fails, .noAnswer],
    let s := { answering { quietAnswers with tickDue := true, sound := sound } with phase := .service, st := 1 }
    s.phase = .service ∧ s.answers.drawScreen = .returns () ∧ s.answers.update = .returns () ∧
      s.answers.tickDue = true ∧ s.answers.sound = sound ∧ s.st.toNat ≤ 1 := by decide

theorem witness_TimerTickCountsDown :
    let s := { answering { quietAnswers with tickDue := true } with phase := .service }
    s.phase = .service ∧ s.answers.drawScreen = .returns () ∧ s.answers.update = .returns () ∧
      s.answers.tickDue = true ∧ s.answers.sound = .returns () := by decide

theorem witness_OnlyTicksWriteOutsideExecutor :
    ∃ s t, step s = .next t ∧ s.phase ≠ .execute ∧ t.dt ≠ s.dt :=
  ⟨{ answering { quietAnswers with tickDue := true } with phase := .service, dt := 1 }, _, rfl, by decide, by decide⟩

theorem witness_SchedulerEdges :
    (∃ t, step State.reset = .next t) ∧ ({ State.reset with phase := .halted } : State).phase = .halted ∧
      ({ State.reset with phase := .faulted } : State).phase = .faulted := ⟨⟨_, rfl⟩, rfl, rfl⟩

theorem witness_UnthrottledRoundRunsOneInstruction :
    let s := { lastWord with
      phase := .check, config := { Config.default with freq := 0 },
      inputs := [quietAnswers, quietAnswers, quietAnswers] }
    s.phase = .check ∧ s.config.freq = 0 ∧ quietAnswers.shouldClose = .returns false ∧
      quietAnswers.drawScreen = .returns () ∧ quietAnswers.update = .returns () ∧ quietAnswers.tickDue = false ∧
      s.pc.toNat + 1 ≤ 0xFFF ∧ s.cell s.pc.toNat = some 0x61 ∧ s.cell (s.pc.toNat + 1) = some 0x05 := by decide

theorem witness_ResetState : ({ Config.default with resetPolicy := .unwritten } : Config).resetPolicy = .unwritten := rfl

theorem witness_LoadPlacesImageVerbatim :
    (List.replicate 0xE00 0#8).length ≤ 0xE00 ∧ 0xE00 < (List.replicate 0xE01 0#8).length := by
  rw [List.length_replicate, List.length_replicate]; decide

theorem witness_LoadPlacesImageVerbatim_boot :
    let c := { Config.default with width := 1, height := 1, freq := 1000000000 }
    1 ≤ c.width ∧ 1 ≤ c.height ∧ c.freq ≤ 1000000000 ∧ ({ c with width := 0 } : Config).width = 0 ∧
      ({ c with height := 0 } : Config).height = 0 ∧ 1000000000 < ({ c with freq := 1000000001 } : Config).freq := by decide

theorem witness_GlyphRegionIsImmutable :
    ∃ t, step { State.reset with phase := .execute } = .next t ∧
      State.reset.config.glyphWritePolicy = .fault ∧ 0x4F < 0x50 := ⟨_, rfl, rfl, by decide⟩

theorem witness_ResetMeetsInv : ({ Config.default with width := 1, height := 1, freq := maxFreq } : Config).Legal := by
  decide

/-- Boots that go on, that see `init()` fail in their first step, and whose `width()` fails. -/
theorem witness_ReachableStatesMeetInv :
    (∃ s t, Reachable s ∧ step s = .next t ∧ t.phase = .check) ∧
      (∃ s t, Reachable s ∧ step s = .next t ∧ t.phase = .faulted) ∧ ∃ s, Reachable s ∧ s.phase = .faulted :=
  ⟨⟨_, _, .boot Config.default [0x22, 0x00] (.returns ()) (.returns ()) [quietAnswers] _ rfl, rfl, rfl⟩,
    ⟨_, _, .boot Config.default [] (.returns ()) (.returns ()) [{ quietAnswers with init := .fails }] _ rfl, rfl, rfl⟩,
    _, .boot Config.default [] .fails (.returns ()) [] _ rfl, rfl⟩

end Sys2Proof.Tests
end

/-! # 10_state.md: the state, its invariant and its frame -/

namespace Sys2Proof.Machine

/-! ## The invariant, update by update -/

section InvUpdates

variable {s : State} (h : Inv s)
include h

theorem Inv.enterFault (at? : Option Word) (f : FaultKind) : Inv (s.enterFault at? f) :=
  { h with recordIff := by simp [State.enterFault] }

theorem Inv.issue (call : CapCall) : Inv (s.issue call) := { h with }

theorem Inv.clearCalls : Inv s.clearCalls := { h with }

theorem Inv.nextAnswers : Inv s.nextAnswers := { h with }

theorem Inv.presenting (answers : List Answers) : Inv (s.presenting answers) := { h with }

theorem Inv.setGate (g : SoundGate) : Inv (s.setGate g) := { h with }

theorem Inv.setDt (b : Byte) : Inv (s.setDt b) := { h with }

theorem Inv.setSt (b : Byte) : Inv (s.setSt b) := { h with }

theorem Inv.decrementTimers : Inv s.decrementTimers := (h.setDt _).setSt _

/-- Between two phases of a run that has not faulted the record stays empty (R200, R230). -/
theorem Inv.setPhase {p : Phase} (hs : s.phase ≠ .faulted) (hp : p ≠ .faulted) : Inv (s.setPhase p) :=
  { h with recordIff := by simpa [hs, hp] using h.recordIff }

theorem Inv.afterCycle : Inv s.afterCycle := by
  by_cases hf : s.phase = .faulted
  · rwa [State.afterCycle_faulted hf]
  · rw [State.afterCycle_running hf]
    exact h.setPhase hf (by decide)

theorem Inv.afterService (hs : s.phase ≠ .faulted) (a : Answers) : Inv (s.afterService a) := by
  rcases State.afterService_cases a s with e | e <;> rw [e]
  · exact h.setPhase hs (by decide)
  · exact h

theorem Inv.setV (x : Reg) (b : Byte) : Inv (s.setV x b) :=
  { h with
    zeroFilled := fun hz => by simp [h.zeroFilled hz]
    stackFilled := fun j hj hb => h.stackFilled j hj (mem_fill.1 hb).1 }

theorem Inv.setIndex (w : Word) : Inv (s.setIndex w) :=
  { h with
    zeroFilled := fun hz => by simp [h.zeroFilled hz]
    stackFilled := fun j hj hb => h.stackFilled j hj (mem_fill.1 hb).1 }

theorem Inv.setRegs (xs : List Reg) (bytes : List Byte) : Inv (s.setRegs xs bytes) := by
  induction xs generalizing bytes s with
  | nil => exact h
  | cons x xs ih =>
    cases bytes with
    | nil => exact h
    | cons b bytes => exact ih (h.setV x b) bytes

theorem Inv.writeArith (x : Reg) (b : Byte) (f : Bool) : Inv (s.writeArith x b f) := by
  unfold State.writeArith
  split
  · exact (h.setV x b).setV vf _
  · exact (h.setV vf _).setV x b

theorem Inv.writeShift (x : Reg) (g : Byte → Byte) (f : Byte → Bool) : Inv (s.writeShift x g f) := by
  unfold State.writeShift
  split
  · exact (h.setV vf _).setV x _
  · exact (h.setV x _).setV vf _

theorem Inv.setPc {w : Word} (hw : w.toNat ≤ 0x10FE) : Inv (s.setPc w) := { h with pcRange := hw }

/-- A step of `pc` past a word that was fetched (R59), or past the one a skip leaves out (R124). -/
theorem Inv.advance (hpc : s.pc.toNat ≤ 0x1000) : Inv s.advance :=
  h.setPc (by simp only [instrWidth]; bv_omega)

theorem Inv.skipIf (hpc : s.pc.toNat ≤ 0x1000) (c : Bool) : Inv (s.skipIf c) := by
  cases c with
  | false => exact h
  | true => exact h.advance hpc

/-- CALL pushes an address onto a stack that is not full (R26, R27). -/
theorem Inv.push {j : Fin stackDepth} {w : Word} (hj : s.sp.toNat = j.val) (hw : w.toNat ≤ 0x1000) :
    Inv ((s.setStack j w).setSp (s.sp + 1)) :=
  have hsp : (s.sp + 1).toNat = j.val + 1 := by have := j.isLt; simp only [stackDepth] at this; bv_omega
  { h with
    spRange := by rw [State.setSp_sp, hsp]; exact j.isLt
    stackRange := fun k => by
      simp only [State.setSp_stack, State.setStack_stack, Fin.getElem_fin, Vector.getElem_set]
      split
      · exact hw
      · exact h.stackRange k
    zeroFilled := fun hz => by simp [h.zeroFilled hz]
    stackFilled := fun k hk hb => by
      rw [State.setSp_sp, hsp] at hk
      obtain ⟨hblank, hne⟩ := mem_fill.1 hb
      have : k.val ≠ j.val := fun e => hne (congrArg Item.stack (Fin.ext e))
      exact h.stackFilled k (by omega) hblank }

/-- RET pops from a stack that is not empty (R26, R27). -/
theorem Inv.pop (hpos : 0 < s.sp.toNat) : Inv (s.setSp (s.sp - 1)) :=
  have hsp : (s.sp - 1).toNat = s.sp.toNat - 1 := by bv_omega
  { h with
    spRange := by rw [State.setSp_sp, hsp]; have := h.spRange; omega
    stackFilled := fun k hk => h.stackFilled k (by rw [State.setSp_sp, hsp] at hk; omega) }

theorem Inv.setPix {p : PixelBuffer} (hp : p.bits < 2 ^ (s.config.width * s.config.height)) : Inv (s.setPix p) :=
  { h with pixRange := hp }

theorem Inv.drawSprite (x0 y0 : Nat) (rows : List Byte) : Inv (s.drawSprite x0 y0 rows) :=
  (h.setV vf _).setPix (togglePixels_lt (fun _ hp => mem_spritePixels h.configLegal hp) h.pixRange)

/-- A block of stores inside memory that spares the glyph region where the policy says so (R56, R62). -/
theorem Inv.setCells {a : Nat} {bytes : List Byte} (hm : a + bytes.length ≤ memSize)
    (hg : glyphBytes ≤ a ∨ s.config.glyphWritePolicy = .write) : Inv (s.setCells a bytes) := by
  rw [State.setCells_frame]
  exact { h with
    memWf := State.wf_setCells h.memWf hm
    glyphsKept := fun hf e he => by
      have ha := hg.resolve_right (by rw [show s.config.glyphWritePolicy = .fault from hf]; decide)
      rcases State.mem_setCells he with he | he
      · omega
      · exact h.glyphsKept hf e he }

end InvUpdates

/-! ## The invariant, instruction by instruction -/

/-- A block whose addresses all pass the checks of `MemWrite` lies in memory and off a protected glyph region (R56). -/
theorem block_writable {c : Config} {w : Word} {n : Nat} (hn : 0 < n)
    (h : ∀ a ∈ cellsFrom w n, writeFault c a = none) :
    w.toNat + n ≤ memSize ∧ (glyphBytes ≤ w.toNat ∨ c.glyphWritePolicy = .write) := by
  have hfirst := writeFault_none.1 (h w.toNat (mem_cellsFrom.2 (by omega)))
  have hlast := writeFault_none.1 (h (w.toNat + (n - 1)) (mem_cellsFrom.2 (by omega)))
  exact ⟨by omega, hfirst.2⟩

theorem zextAddr_toNat (nnn : Addr12) : (zextAddr nnn).toNat = nnn.toNat := by
  simp only [zextAddr, BitVec.toNat_setWidth]; omega

/-- JP V0 reaches at most 0xFFF + 0xFF (R24, R114). -/
theorem jumpOffset_le (nnn : Addr12) (off : Byte) : (zextAddr nnn + zextByte off).toNat ≤ 0x10FE := by
  have h1 := nnn.isLt
  have h2 := off.isLt
  simp only [zextByte, BitVec.toNat_add, BitVec.toNat_setWidth, zextAddr_toNat]
  omega

/-- Completing keeps the invariant: `pc` starts past a word that was fetched, so it is at most 0x1000 (R59, R80). -/
theorem Completion.inv {i : Instr} {s t : State} (hc : Completion i s t) (h : Inv s) (hpc : s.pc.toNat ≤ 0x1000) :
    Inv t := by
  cases i <;> simp only [Completion] at hc
  case sys => subst hc; exact h
  case cls => subst hc; exact h.setPix (Nat.two_pow_pos _)
  case ret =>
    obtain ⟨j, hj, -, rfl⟩ := hc
    exact (h.pop (by omega)).setPc (Nat.le_trans (h.stackRange j) (by decide))
  case call nnn =>
    obtain ⟨j, hj, rfl⟩ := hc
    exact (h.push hj hpc).setPc (by rw [zextAddr_toNat]; have := nnn.isLt; omega)
  case jp nnn => subst hc; exact h.setPc (by rw [zextAddr_toNat]; have := nnn.isLt; omega)
  case jpOff => subst hc; exact h.setPc (jumpOffset_le _ _)
  case seImm | sneImm | seReg | sneReg => subst hc; exact h.skipIf hpc _
  case ldImm | addImm | ldReg | or | and | xor | rnd | ldVxDt => subst hc; exact h.setV _ _
  case addReg | subReg | subn => subst hc; exact h.writeArith _ _ _
  case shr | shl => subst hc; exact h.writeShift _ _ _
  case ldI | addI | ldF => subst hc; exact h.setIndex _
  case drw => obtain ⟨rows, -, -, -, rfl⟩ := hc; exact h.drawSprite _ _ _
  case skp | sknp => obtain ⟨key, -, down, rfl⟩ := hc; exact (h.issue _).skipIf hpc _
  case ldVxK => obtain ⟨event, rfl⟩ := hc; exact (h.issue _).setV _ _
  case ldDtVx => subst hc; exact h.setDt _
  case ldStVx => subst hc; exact h.setSt _
  case ldB =>
    obtain ⟨hw, rfl⟩ := hc
    obtain ⟨hm, hg⟩ := block_writable (by omega) hw
    exact h.setCells (by simpa [bcdDigits] using hm) hg
  case storeRegs =>
    obtain ⟨hw, -, rfl⟩ := hc
    obtain ⟨hm, hg⟩ := block_writable (by omega) hw
    exact h.setCells (by simpa using hm) hg
  case loadRegs => obtain ⟨bytes, -, -, -, rfl⟩ := hc; exact h.setRegs _ _

theorem ExecNext.inv {i : Instr} {s t : State} (hx : ExecNext i s t) (h : Inv s) (hpc : s.pc.toNat ≤ 0x1000) :
    Inv t := by
  cases hx with
  | faults f => exact h.enterFault _ _
  | callFails call _ => exact (h.issue _).enterFault _ _
  | completes _ _ hc => exact hc.inv h hpc

/-! ## The invariant, phase by phase -/

section InvPhases

variable {s : State} (h : Inv s)
include h

/-- A word is fetched from 0xFFE at most, so `pc` past it is at most 0x1000, whatever comes of the word (R59, R80). -/
theorem Inv.executePhase : Ensures Inv (executePhase s) := by
  refine .fetch (fun f => h.enterFault _ f) fun hi lo hr _ _ => .onNext ?_
  simp only [memSize] at hr
  have hadv : Inv s.advance := h.advance (by omega)
  have hpc : s.advance.pc.toNat ≤ 0x1000 := by simp only [State.advance_pc, instrWidth]; bv_omega
  unfold decodeAndExecute
  split
  · exact fun t ht => ((exec_cases ht).inv hadv hpc).afterCycle
  · exact .raiseHere (hadv.enterFault _ _).afterCycle

theorem Inv.initPhase (hp : s.phase ≠ .faulted) : Ensures Inv (initPhase s) :=
  .initPhase ((h.issue _).enterFault _ _) ((h.issue _).setPhase hp (by decide))

theorem Inv.checkPhase (hp : s.phase ≠ .faulted) : Ensures Inv (checkPhase s) :=
  .checkPhase ((h.issue _).enterFault _ _) fun close => (h.issue _).setPhase hp (by cases close <;> decide)

theorem Inv.finalPhase (hp : s.phase ≠ .faulted) : Ensures Inv (finalPhase s) :=
  .finalPhase ((h.issue _).enterFault _ _) ((h.issue _).setPhase hp (by decide))

theorem Inv.servicePhase (hp : s.phase ≠ .faulted) : Ensures Inv (servicePhase s) :=
  have drawn := h.issue .drawScreen
  .servicePhase (drawn.enterFault _ _) (fun _ => (drawn.issue _).enterFault _ _)
    (fun _ _ => (drawn.issue _).afterService hp _)
    (fun _ _ _ => ((drawn.issue _).decrementTimers.issue _).enterFault _ _)
    (fun _ _ _ _ => (((drawn.issue _).decrementTimers.issue _).setGate _).afterService hp _)

theorem Inv.runPhase : Ensures Inv (runPhase s) := by
  unfold Machine.runPhase
  split
  next hp => exact h.initPhase (by simp [hp])
  next hp => exact h.checkPhase (by simp [hp])
  next hp => exact h.servicePhase (by simp [hp])
  next => exact h.executePhase
  next hp => exact h.finalPhase (by simp [hp])
  next => exact .refused
  next => exact .fault

theorem Inv.step : Ensures Inv (step s) :=
  .onNext (h.clearCalls.runPhase.mono fun _ ht => ht.nextAnswers)

end InvPhases

/-- Settles O57: each update an instruction or a phase is made of keeps the invariant. -/
theorem stepKeepsInv : Obligations.StepKeepsInv := by
  unfold Obligations.StepKeepsInv
  exact fun s t h hs => h.step t hs

/-! ## The invariant along runs -/

/-- The invariant at reset, whatever the host's two calls left on the request port (R250). -/
theorem Inv.resetWith {c : Config} (hc : c.Legal) (calls : List CapCall) :
    Inv { State.resetWith c with calls := calls } where
  configLegal := hc
  memWf := Memory.wf_nil c
  glyphsKept := fun _ e he => absurd he List.not_mem_nil
  spRange := Nat.zero_le _
  stackRange := fun j => by simp [State.resetWith]
  pcRange := by simp [State.resetWith, progBase]
  pixRange := Nat.two_pow_pos _
  recordIff := by simp [State.resetWith]
  zeroFilled := fun hz => by
    have hz : c.resetPolicy = .zero := hz
    simp [State.resetWith, hz]
  stackFilled := fun j hj => absurd hj (by simp [State.resetWith])

/-- An image that fits lies above the glyph region and inside memory (R251). -/
theorem Inv.placeImage {s : State} (h : Inv s) {image : List Byte} (hi : image.length ≤ maxImage) :
    Inv (s.placeImage image) :=
  h.setCells (by simp only [maxImage, memSize, progBase] at *; omega) (.inl (by decide))

theorem Inv.boot (c : Config) (image : List Byte) (width height : Response Unit) (answers : List Answers) :
    Ensures Inv (boot c image width height answers) :=
  .boot (fun calls _ hc => (Inv.resetWith hc calls).enterFault _ _)
    fun hc hi => ((Inv.resetWith hc _).placeImage hi).presenting answers

/-- Settles O59: the invariant holds after boot and every step keeps it. -/
theorem reachableStatesMeetInv : Obligations.ReachableStatesMeetInv := by
  unfold Obligations.ReachableStatesMeetInv
  intro s hr
  induction hr with
  | boot c image width height answers s h => exact Inv.boot c image width height answers s h
  | step s t _ hs ih => exact stepKeepsInv s t ih hs

/-! ## F_UNWRITTEN: the first register without a value (R22, R201 row 9) -/

/-- If some of `items` holds no value, `r` is the F_UNWRITTEN that names the first of them. -/
def FaultsAtFirstBlank (items : List Item) (s : State) (r : Result) : Prop :=
  ∀ it, items.find? (fun it => decide (it ∈ s.blank)) = some it → r = raiseHere (.unwritten it) s

section FirstBlank

variable {s : State} {items : List Item}

theorem FaultsAtFirstBlank.nil {r : Result} : FaultsAtFirstBlank [] s r := by
  intro it hit; simp at hit

theorem FaultsAtFirstBlank.readItem {α : Type} {it : Item} {v : α} {k : α → Result}
    (h : FaultsAtFirstBlank items s (k v)) : FaultsAtFirstBlank (it :: items) s (readItem it v s k) := by
  intro jt hjt
  by_cases hb : it ∈ s.blank
  · obtain rfl : it = jt := by simpa [hb] using hjt
    exact readItem_blank hb v k
  · rw [readItem_held hb]
    exact h jt (by simpa [hb] using hjt)

theorem FaultsAtFirstBlank.readV {x : Reg} {k : Byte → Result} (h : FaultsAtFirstBlank items s (k s.v[x])) :
    FaultsAtFirstBlank (.v x :: items) s (readV x s k) := .readItem h

theorem FaultsAtFirstBlank.readIndex {k : Word → Result} (h : FaultsAtFirstBlank items s (k s.index)) :
    FaultsAtFirstBlank (.index :: items) s (readIndex s k) := .readItem h

theorem FaultsAtFirstBlank.readBlock {n : Nat} {k : List Byte → Result} :
    FaultsAtFirstBlank (if n = 0 then [] else [.index]) s (readBlock n s k) := by
  unfold Machine.readBlock
  split
  · exact .nil
  · exact .readIndex .nil

theorem FaultsAtFirstBlank.withWritable {n : Nat} {k : Nat → Result} :
    FaultsAtFirstBlank [.index] s (withWritable n s k) := .readIndex .nil

theorem FaultsAtFirstBlank.askKey {x : Reg} {k : Bool → State → Result} :
    FaultsAtFirstBlank [.v x] s (askKey x s k) := .readV .nil

end FirstBlank

/-- Every meaning reads its operands in the order of `Instr.firstReads` and does nothing before it has them all. -/
theorem exec_faultsAtFirstBlank (i : Instr) (s : State) : FaultsAtFirstBlank (i.firstReads s.config) s (exec i s) := by
  cases i <;> simp only [exec, Instr.firstReads]
  case sys | cls | ret | jp | call | ldImm | ldI | rnd | ldVxDt | ldVxK => exact .nil
  case seImm | sneImm | addImm | shr | shl | ldReg | jpOff | ldDtVx | ldStVx | ldF => exact .readV .nil
  case skp | sknp => exact .askKey
  case seReg | sneReg | or | and | xor | addReg | subReg | subn => exact .readV (.readV .nil)
  case addI => exact .readIndex (.readV .nil)
  case ldB => exact .readV .withWritable
  case storeRegs => exact .withWritable
  case loadRegs x => exact .readBlock (n := x.val + 1)
  case drw x y n =>
    have h : FaultsAtFirstBlank (.v x :: .v y :: if n.val = 0 then [] else [.index]) s (execDrw x y n s) :=
      .readV (.readV .readBlock)
    split <;> simpa [*] using h

/-- Settles O10: the first of `Instr.firstReads` without a value stops the meaning. -/
theorem unwrittenOperandFaults : Obligations.UnwrittenOperandFaults := by
  unfold Obligations.UnwrittenOperandFaults
  exact fun i s it hit => exec_faultsAtFirstBlank i s it hit

/-! ## F_UNWRITTEN: the lowest cell without a value (R156, R171) -/

/-- Settles O11: both instructions read their cells by `readBlock`, once their registers are read. -/
theorem unwrittenCellFaults : Obligations.UnwrittenCellFaults := by
  unfold Obligations.UnwrittenCellFaults
  intro i s len k hr hi hlen hk hcell hlow
  rcases hi with ⟨x, rfl, rfl⟩ | ⟨x, y, n, rfl, rfl⟩
  · have hindex : Item.index ∉ s.blank := hr _ (by simp [Instr.firstReads])
    exact readBlock_blank hindex hlen hk hcell hlow _
  · have hn : n.val ≠ 0 := by omega
    simp only [Instr.Readable, Instr.firstReads, if_neg hn, List.forall_mem_cons] at hr
    obtain ⟨hx, hy, hindex, -⟩ := hr
    simp only [exec, execDrw, readV_held hx, readV_held hy]
    exact readBlock_blank hindex hlen hk hcell hlow _

/-! ## No F_UNWRITTEN where everything holds a value -/

/-- Every register, slot and cell holds a value. -/
structure AllWritten (s : State) : Prop where
  items : s.blank = []
  cells : ∀ a, s.cell a ≠ none

/-- The fault record is not F_UNWRITTEN. -/
def RecordsNoUnwritten (s : State) : Prop := ∀ it at?, s.faultRecord ≠ some ⟨.unwritten it, at?⟩

/-- Under `RESET_POLICY` = `Zero` a cell that nothing lists reads as a glyph byte or 0 (R52). -/
theorem unlisted_zero {c : Config} (hz : c.resetPolicy = .zero) (a : Nat) : unlisted c a ≠ none := by
  unfold unlisted
  split <;> simp [hz]

theorem Inv.allWritten {s : State} (h : Inv s) (hz : s.config.resetPolicy = .zero) : AllWritten s where
  items := h.zeroFilled hz
  cells := fun a => by
    unfold State.cell Memory.get
    split
    · simp
    · exact unlisted_zero hz a

theorem RecordsNoUnwritten.of_none {s : State} (h : s.faultRecord = none) : RecordsNoUnwritten s := by
  intro it at?; simp [h]

theorem RecordsNoUnwritten.of_eq {s t : State} (h : RecordsNoUnwritten s) (e : t.faultRecord = s.faultRecord) :
    RecordsNoUnwritten t := by
  intro it at?; rw [e]; exact h it at?

theorem RecordsNoUnwritten.enterFault {f : FaultKind} (hf : ∀ it, f ≠ .unwritten it) (at? : Option Word) (s : State) :
    RecordsNoUnwritten (s.enterFault at? f) := by
  intro it at?' e
  simp only [State.enterFault, Option.some.injEq, FaultRecord.mk.injEq] at e
  exact hf it e.1

theorem RecordsNoUnwritten.capability (call : CapCall) (at? : Option Word) (s : State) :
    RecordsNoUnwritten (s.enterFault at? (.capability call)) :=
  RecordsNoUnwritten.enterFault (by simp) at? s

theorem readFault_ne_unwritten {a : Nat} {f : FaultKind} (h : readFault a = some f) (it : Item) :
    f ≠ .unwritten it := by
  rintro rfl; simp [readFault] at h

theorem writeFault_ne_unwritten {c : Config} {a : Nat} {f : FaultKind} (h : writeFault c a = some f) (it : Item) :
    f ≠ .unwritten it := by
  rintro rfl
  unfold writeFault at h
  split at h
  · simp at h
  · split at h <;> simp at h

theorem checkAll_noUnwritten {check : Nat → Option FaultKind} {addrs : List Nat} {s : State}
    {k : Result} (hf : ∀ a f, check a = some f → ∀ it, f ≠ .unwritten it) (hk : Ensures RecordsNoUnwritten k) :
    Ensures RecordsNoUnwritten (checkAll check addrs s k) := by
  unfold checkAll
  split
  · next f hfirst =>
    obtain ⟨a, -, ha⟩ := List.exists_of_findSome?_eq_some hfirst
    exact .raiseHere (RecordsNoUnwritten.enterFault (hf a f ha) _ s)
  · exact hk

section AllWrittenReads

variable {P : State → Prop} {s : State} (hw : AllWritten s)
include hw

theorem AllWritten.readItem {α : Type} {it : Item} {v : α} {k : α → Result} (hk : Ensures P (k v)) :
    Ensures P (readItem it v s k) := by
  rwa [readItem_held (by simp [hw.items])]

theorem AllWritten.readV {x : Reg} {k : Byte → Result} (hk : Ensures P (k s.v[x])) : Ensures P (readV x s k) :=
  hw.readItem hk

theorem AllWritten.readIndex {k : Word → Result} (hk : Ensures P (k s.index)) : Ensures P (readIndex s k) :=
  hw.readItem hk

theorem AllWritten.readRegs {xs : List Reg} {k : List Byte → Result} (hk : ∀ bytes, Ensures P (k bytes)) :
    Ensures P (readRegs xs s k) := by
  rw [readRegs_held (by simp [hw.items])]
  exact hk _

theorem AllWritten.readCell {at? : Word} {a : Nat} {k : Byte → Result} (hk : ∀ b, Ensures P (k b)) :
    Ensures P (readCell at? a s k) := by
  unfold Machine.readCell
  split
  · exact hk _
  · exact absurd ‹_› (hw.cells a)

theorem AllWritten.readCells {as : List Nat} {k : List Byte → Result} (hk : ∀ bytes, Ensures P (k bytes)) :
    Ensures P (readCells as s k) := by
  induction as generalizing k with
  | nil => exact hk []
  | cons a as ih => exact hw.readCell fun b => ih fun bytes => hk (b :: bytes)

theorem AllWritten.readBlock {n : Nat} {k : List Byte → Result} (hk : ∀ bytes, Ensures RecordsNoUnwritten (k bytes)) :
    Ensures RecordsNoUnwritten (readBlock n s k) := by
  unfold Machine.readBlock
  split
  · exact hk []
  · exact hw.readIndex (checkAll_noUnwritten (fun _ _ => readFault_ne_unwritten) (hw.readCells hk))

theorem AllWritten.withWritable {n : Nat} {k : Nat → Result} (hk : Ensures RecordsNoUnwritten (k s.index.toNat)) :
    Ensures RecordsNoUnwritten (withWritable n s k) :=
  hw.readIndex (checkAll_noUnwritten (fun _ _ => writeFault_ne_unwritten) hk)

theorem AllWritten.askKey {x : Reg} {k : Bool → State → Result}
    (hk : ∀ key down, Ensures RecordsNoUnwritten (k down (s.issue (.isKeyPressed key)))) :
    Ensures RecordsNoUnwritten (askKey x s k) :=
  hw.readV (.readKey (RecordsNoUnwritten.enterFault (by simp) _ s) fun key _ =>
    .request (RecordsNoUnwritten.capability _ _ _) fun _ _ => hk key _)

/-- An instruction that finds everything written raises no F_UNWRITTEN. -/
theorem AllWritten.exec (hs : RecordsNoUnwritten s) (i : Instr) : Ensures RecordsNoUnwritten (exec i s) := by
  cases i <;> simp only [Machine.exec]
  case sys | cls | jp | ldImm | ldI | rnd | ldVxDt => exact .next hs
  case seImm | sneImm => exact hw.readV (.next (hs.of_eq (by simp)))
  case addImm | ldReg | jpOff | ldDtVx | ldStVx | ldF => exact hw.readV (.next hs)
  case or | and | xor => exact hw.readV (hw.readV (.next hs))
  case seReg | sneReg | addReg | subReg | subn => exact hw.readV (hw.readV (.next (hs.of_eq (by simp))))
  case shr | shl => exact hw.readV (.next (hs.of_eq (by simp)))
  case addI => exact hw.readIndex (hw.readV (.next hs))
  case skp | sknp => exact hw.askKey fun _ _ => .next (hs.of_eq (by simp))
  case ldVxK => exact .request (RecordsNoUnwritten.capability _ _ _) fun _ _ => .next hs
  case ldB => exact hw.readV (hw.withWritable (.next (hs.of_eq (by simp))))
  case storeRegs => exact hw.withWritable (hw.readRegs fun _ => .next (hs.of_eq (by simp)))
  case loadRegs => exact hw.readBlock fun _ => .next (hs.of_eq (by simp))
  case drw => exact hw.readV (hw.readV (hw.readBlock fun _ => .next hs))
  case call =>
    unfold execCall
    split
    · exact .next hs
    · exact .raiseHere (RecordsNoUnwritten.enterFault (by simp) _ s)
  case ret =>
    unfold execRet readStack
    split
    · exact .raiseHere (RecordsNoUnwritten.enterFault (by simp) _ s)
    · split
      · exact hw.readItem (.next hs)
      · exact .raiseHere (RecordsNoUnwritten.enterFault (by simp) _ s)

/-- Nor does a cycle: the fetch finds its two cells written. -/
theorem AllWritten.executePhase (hs : RecordsNoUnwritten s) : Ensures RecordsNoUnwritten (executePhase s) := by
  unfold Machine.executePhase fetch
  split
  · exact .raise (RecordsNoUnwritten.enterFault (by simp) _ s)
  · refine hw.readCell fun hi => hw.readCell fun lo => .onNext ?_
    have hadv : AllWritten s.advance := ⟨hw.items, hw.cells⟩
    suffices Ensures RecordsNoUnwritten (decodeAndExecute (wordOfBytes hi lo) s.advance) from
      this.mono fun t ht => ht.of_eq (by simp)
    unfold decodeAndExecute
    split
    · exact hadv.exec hs _
    · exact .raiseHere (RecordsNoUnwritten.enterFault (by simp) _ _)

end AllWrittenReads

/-- A service iteration raises no fault but F_CAPABILITY. -/
theorem servicePhase_noUnwritten {s : State} (hs : RecordsNoUnwritten s) :
    Ensures RecordsNoUnwritten (servicePhase s) :=
  .servicePhase (RecordsNoUnwritten.capability _ _ _) (fun _ => RecordsNoUnwritten.capability _ _ _)
    (fun _ _ => hs.of_eq (by simp)) (fun _ _ _ => RecordsNoUnwritten.capability _ _ _)
    (fun _ _ _ _ => hs.of_eq (by simp))

theorem AllWritten.runPhase {s : State} (hw : AllWritten s) (hs : RecordsNoUnwritten s) :
    Ensures RecordsNoUnwritten (runPhase s) := by
  unfold Machine.runPhase
  split
  next => exact .initPhase (RecordsNoUnwritten.capability _ _ _) hs
  next => exact .checkPhase (RecordsNoUnwritten.capability _ _ _) fun _ => hs
  next => exact servicePhase_noUnwritten hs
  next => exact hw.executePhase hs
  next => exact .finalPhase (RecordsNoUnwritten.capability _ _ _) hs
  next => exact .refused
  next => exact .fault

/-- Settles O12: nothing is unwritten under the invariant, and only an unwritten item raises F_UNWRITTEN. -/
theorem zeroPolicyNeverUnwritten : Obligations.ZeroPolicyNeverUnwritten := by
  unfold Obligations.ZeroPolicyNeverUnwritten
  intro s t it at? h hz hstep
  by_cases hp : s.phase = .faulted
  · simp [step, schedulerStep, Machine.runPhase, hp] at hstep
  · have hnone : s.faultRecord = none := by
      rwa [h.recordIff, Option.not_isSome_iff_eq_none] at hp
    have hs : RecordsNoUnwritten s.clearCalls := .of_none hnone
    have hall : Ensures RecordsNoUnwritten (step s) := .onNext ((h.clearCalls.allWritten hz).runPhase hs)
    exact hall t hstep it at?

/-! ## The V registers an instruction leaves alone (R20, R21) -/

/-- `t` has in `V[r]` what `s` has, and `V[r]` is written in the one if it is in the other. -/
def SameReg (r : Reg) (s t : State) : Prop := t.v[r] = s.v[r] ∧ (Item.v r ∈ t.blank ↔ Item.v r ∈ s.blank)

section SameReg

variable {r : Reg} {s t : State}

theorem SameReg.of_eq (hv : t.v = s.v) (hb : t.blank = s.blank) : SameReg r s t := by
  simp [SameReg, hv, hb]

theorem SameReg.setV {x : Reg} (h : r ≠ x) (b : Byte) (s : State) : SameReg r s (s.setV x b) := by
  have hx := (Reg.val_ne h).symm
  simp [SameReg, hx, h]

theorem SameReg.writeArith {x : Reg} (hx : r ≠ x) (hf : r ≠ 15) (b : Byte) (f : Bool) (s : State) :
    SameReg r s (s.writeArith x b f) :=
  ⟨State.writeArith_other hx hf b f s, by simp [mem_blank_writeArith, hx, hf]⟩

theorem SameReg.writeShift {x : Reg} (hx : r ≠ x) (hf : r ≠ 15) (g : Byte → Byte) (f : Byte → Bool) (s : State) :
    SameReg r s (s.writeShift x g f) :=
  ⟨State.writeShift_other hx hf g f s, by simp [mem_blank_writeShift, hx, hf]⟩

theorem SameReg.drawSprite (hf : r ≠ 15) (x0 y0 : Nat) (rows : List Byte) (s : State) :
    SameReg r s (s.drawSprite x0 y0 rows) := SameReg.setV hf _ s

theorem Completion.sameReg {i : Instr} (hc : Completion i s t) (hd : r ∉ i.namedDest)
    (hf : ¬(r = 15 ∧ i.writesFlag = true)) : SameReg r s t := by
  cases i <;> simp only [Completion] at hc <;>
    simp only [Instr.namedDest, Instr.writesFlag, List.mem_singleton, and_true] at hd hf
  case sys | cls | jp | jpOff | ldDtVx | ldStVx => subst hc; exact .of_eq rfl rfl
  case seImm | sneImm | seReg | sneReg => subst hc; exact .of_eq (by simp) (by simp)
  case ret => obtain ⟨j, -, -, rfl⟩ := hc; exact .of_eq rfl rfl
  case call => obtain ⟨j, -, rfl⟩ := hc; simp [SameReg]
  case ldI | addI | ldF => subst hc; simp [SameReg]
  case ldB => obtain ⟨-, rfl⟩ := hc; exact .of_eq (by simp) (by simp)
  case storeRegs => obtain ⟨-, -, rfl⟩ := hc; exact .of_eq (by simp) (by simp)
  case skp | sknp => obtain ⟨key, -, down, rfl⟩ := hc; exact .of_eq (by simp) (by simp)
  case ldImm | addImm | ldReg | or | and | xor | rnd | ldVxDt => subst hc; exact .setV hd _ s
  case ldVxK => obtain ⟨event, rfl⟩ := hc; exact .setV hd _ (s.issue _)
  case loadRegs => obtain ⟨bytes, -, -, -, rfl⟩ := hc; exact State.setRegs_other hd bytes s
  case addReg | subReg | subn => subst hc; exact .writeArith hd hf _ _ s
  case shr | shl => subst hc; exact .writeShift hd hf _ _ s
  case drw => obtain ⟨rows, -, -, -, rfl⟩ := hc; exact .drawSprite hf _ _ _ s

theorem exec_sameReg {i : Instr} (h : exec i s = .next t) (hd : r ∉ i.namedDest)
    (hf : ¬(r = 15 ∧ i.writesFlag = true)) : SameReg r s t := by
  cases exec_cases h with
  | faults f => exact .of_eq rfl rfl
  | callFails call _ => exact .of_eq rfl rfl
  | completes _ _ hc => exact hc.sameReg hd hf

end SameReg

/-- Settles O42: a fault touches no V register, a completion only those it writes. -/
theorem registerFrame : Obligations.RegisterFrame := by
  unfold Obligations.RegisterFrame
  exact fun i s t r h hd hf => exec_sameReg h hd hf

/-! ## The special registers an instruction leaves alone (R23, R25 to R30) -/

/-- Whichever of `pc`, `I`, `SP`, the stack, `DT`, `ST` and the pixels differs between `s` and `t` is one that `i`
writes. -/
def SpecialsWrittenBy (i : Instr) (s t : State) : Prop :=
  (t.pc ≠ s.pc → i = .ret ∨ (∃ nnn, i = .jp nnn ∨ i = .call nnn ∨ i = .jpOff nnn) ∨
    (∃ x kk, i = .seImm x kk ∨ i = .sneImm x kk) ∨ (∃ x y, i = .seReg x y ∨ i = .sneReg x y) ∨
    ∃ x, i = .skp x ∨ i = .sknp x) ∧
  (t.index ≠ s.index → (∃ nnn, i = .ldI nnn) ∨ ∃ x, i = .addI x ∨ i = .ldF x) ∧
  (t.sp ≠ s.sp → i = .ret ∨ ∃ nnn, i = .call nnn) ∧
  (∀ j : Fin 16, t.stack[j] ≠ s.stack[j] → (∃ nnn, i = .call nnn) ∧ j.val = s.sp.toNat) ∧
  (t.dt ≠ s.dt → ∃ x, i = .ldDtVx x) ∧
  (t.st ≠ s.st → ∃ x, i = .ldStVx x) ∧
  (t.pix ≠ s.pix → i = .cls ∨ ∃ x y n, i = .drw x y n)

/-- A slot other than the one pushed to. -/
theorem stack_push_other {s : State} {j k : Fin stackDepth} {w : Word}
    (h : (s.stack.set j w)[k] ≠ s.stack[k]) : k = j := by
  by_contra hne
  have hval : j.val ≠ k.val := fun e => hne (Fin.ext e.symm)
  exact h (by simp [hval])

theorem Completion.specials {i : Instr} {s t : State} (hc : Completion i s t) : SpecialsWrittenBy i s t := by
  unfold SpecialsWrittenBy
  cases i <;> simp only [Completion] at hc
  case call nnn =>
    obtain ⟨j, hj, rfl⟩ := hc
    refine ⟨by simp, by simp, by simp, fun k hk => ⟨⟨nnn, rfl⟩, ?_⟩, by simp, by simp, by simp⟩
    rw [hj, stack_push_other hk]
  case ret => obtain ⟨j, -, -, rfl⟩ := hc; simp
  case ldB => obtain ⟨-, rfl⟩ := hc; simp
  case storeRegs => obtain ⟨-, -, rfl⟩ := hc; simp
  case skp | sknp => obtain ⟨key, -, down, rfl⟩ := hc; simp
  case ldVxK => obtain ⟨event, rfl⟩ := hc; simp
  case loadRegs => obtain ⟨bytes, -, -, -, rfl⟩ := hc; simp
  case drw => obtain ⟨rows, -, -, -, rfl⟩ := hc; simp
  all_goals subst hc; simp

/-- Settles O45: a fault touches none of them, a completion only the one its rule names. -/
theorem specialRegisterFrame : Obligations.SpecialRegisterFrame := by
  unfold Obligations.SpecialRegisterFrame
  intro i s t h
  cases exec_cases h with
  | faults f => simp
  | callFails call _ => simp
  | completes _ _ hc => exact hc.specials

/-! ## The control state an instruction leaves alone (R34, R35) -/

/-- Completing makes no capability call but the one of a key instruction (R225). -/
theorem Completion.calls {i : Instr} {s t : State} (hc : Completion i s t) :
    t.calls = s.calls ∨ ∃ call, KeyCall i call ∧ t.calls = s.calls ++ [call] := by
  cases i <;> simp only [Completion] at hc
  case skp x => obtain ⟨key, -, down, rfl⟩ := hc; exact .inr ⟨_, .inl ⟨x, key, .inl rfl, rfl⟩, by simp⟩
  case sknp x => obtain ⟨key, -, down, rfl⟩ := hc; exact .inr ⟨_, .inl ⟨x, key, .inr rfl, rfl⟩, by simp⟩
  case ldVxK x => obtain ⟨event, rfl⟩ := hc; exact .inr ⟨_, .inr ⟨x, rfl, rfl⟩, by simp⟩
  case call => obtain ⟨j, -, rfl⟩ := hc; exact .inl rfl
  case ret => obtain ⟨j, -, -, rfl⟩ := hc; exact .inl rfl
  case ldB => obtain ⟨-, rfl⟩ := hc; exact .inl (by simp)
  case storeRegs => obtain ⟨-, -, rfl⟩ := hc; exact .inl (by simp)
  case loadRegs => obtain ⟨bytes, -, -, -, rfl⟩ := hc; exact .inl (by simp)
  case drw => obtain ⟨rows, -, -, -, rfl⟩ := hc; exact .inl (by simp)
  all_goals subst hc; exact .inl (by simp)

theorem ExecNext.calls {i : Instr} {s t : State} (hx : ExecNext i s t) :
    t.calls = s.calls ∨ ∃ call, KeyCall i call ∧ t.calls = s.calls ++ [call] := by
  cases hx with
  | faults f => exact .inl rfl
  | callFails call hk => exact .inr ⟨call, hk, rfl⟩
  | completes _ _ hc => exact hc.calls

/-- The scheduler's phase and the fault record change together, by a fault at the instruction's own address. -/
theorem ExecNext.record {i : Instr} {s t : State} (hx : ExecNext i s t) :
    (t.phase = s.phase ∧ t.faultRecord = s.faultRecord) ∨
      (t.phase = .faulted ∧ ∃ k, t.faultRecord = some ⟨k, some (s.pc - 2)⟩) := by
  cases hx with
  | faults f => exact .inr ⟨rfl, f, rfl⟩
  | callFails call _ => exact .inr ⟨rfl, _, rfl⟩
  | completes _ _ hc =>
    obtain ⟨hphase, hrecord, -⟩ := hc.control
    exact .inl ⟨hphase, hrecord⟩

/-- Nothing an instruction does reaches the parameters, the gate or the answers to come. -/
theorem ExecNext.outside {i : Instr} {s t : State} (hx : ExecNext i s t) :
    t.config = s.config ∧ t.soundGate = s.soundGate ∧ t.inputs = s.inputs ∧ t.draws = s.draws := by
  cases hx with
  | faults f => exact ⟨rfl, rfl, rfl, rfl⟩
  | callFails call _ => exact ⟨rfl, rfl, rfl, rfl⟩
  | completes _ _ hc =>
    obtain ⟨-, -, hgate, hconfig, hinputs, hdraws⟩ := hc.control
    exact ⟨hconfig, hgate, hinputs, hdraws⟩

theorem ExecNext.blank {i : Instr} {s t : State} (hx : ExecNext i s t) {it : Item} (hit : it ∈ t.blank) :
    it ∈ s.blank := by
  cases hx with
  | faults f => exact hit
  | callFails call _ => exact hit
  | completes _ _ hc => exact hc.blank hit

/-- Settles O46: part by part of what `exec` can answer. -/
theorem controlStateFrame : Obligations.ControlStateFrame := by
  unfold Obligations.ControlStateFrame
  intro i s t h
  have hx := exec_cases h
  obtain ⟨hconfig, hgate, hinputs, hdraws⟩ := hx.outside
  refine ⟨hconfig, hgate, hinputs, hdraws, ?_, hx.record, fun it => hx.blank⟩
  rcases hx.calls with hsame | ⟨_, ⟨x, key, hi, rfl⟩ | ⟨x, hi, rfl⟩, hcalls⟩
  · exact .inl hsame
  · exact .inr (.inl ⟨x, key, hi, hcalls⟩)
  · exact .inr (.inr ⟨x, hi, hcalls⟩)

/-! ## Two states that an instruction cannot tell apart -/

/-- `s'` is `s` but for the values of the V registers in `hidden`, and for its sound timer, of which only `sound` is
known. -/
inductive Alike (hidden : Reg → Prop) (sound : Byte → Byte → Prop) (s : State) : State → Prop where
  | mk (v : Vector Byte 16) (st : Byte) (regs : ∀ r : Reg, ¬hidden r → v[r] = s.v[r]) (timer : sound s.st st) :
      Alike hidden sound s { s with v := v, st := st }

/-- Two results of one kind, whose next states are alike. -/
inductive ResultsAlike (hidden : Reg → Prop) (sound : Byte → Byte → Prop) : Result → Result → Prop where
  | next {s s' : State} (h : Alike hidden sound s s') : ResultsAlike hidden sound (.next s) (.next s')
  | fault (f : Fault) : ResultsAlike hidden sound (.fault f) (.fault f)

section AlikeUpdates

variable {hidden : Reg → Prop} {sound : Byte → Byte → Prop} {s s' : State} (h : Alike hidden sound s s')
include h

theorem Alike.config : s'.config = s.config := by cases h; rfl
theorem Alike.pix : s'.pix = s.pix := by cases h; rfl
theorem Alike.index : s'.index = s.index := by cases h; rfl
theorem Alike.dt : s'.dt = s.dt := by cases h; rfl
theorem Alike.answers : s'.answers = s.answers := by cases h; rfl
theorem Alike.instrAddr : s'.instrAddr = s.instrAddr := by cases h; rfl
theorem Alike.cell : s'.cell = s.cell := by cases h; rfl

theorem Alike.reg {x : Reg} (hx : ¬hidden x) : s'.v[x] = s.v[x] := by
  cases h with
  | mk v st hv hst => exact hv x hx

theorem Alike.setV (x : Reg) (b : Byte) : Alike hidden sound (s.setV x b) (s'.setV x b) := by
  cases h with
  | mk v st hv hst =>
    refine .mk (v.set x b) st (fun r hr => ?_) hst
    have := hv r hr
    simp only [Fin.getElem_fin] at this
    simp only [State.setV_v, Fin.getElem_fin, Vector.getElem_set, this]

theorem Alike.setIndex (w : Word) : Alike hidden sound (s.setIndex w) (s'.setIndex w) := by
  cases h with
  | mk v st hv hst => exact .mk v st hv hst

theorem Alike.setPc (w : Word) : Alike hidden sound (s.setPc w) (s'.setPc w) := by
  cases h with
  | mk v st hv hst => exact .mk v st hv hst

theorem Alike.setDt (b : Byte) : Alike hidden sound (s.setDt b) (s'.setDt b) := by
  cases h with
  | mk v st hv hst => exact .mk v st hv hst

theorem Alike.setSt {b : Byte} (hb : sound b b) : Alike hidden sound (s.setSt b) (s'.setSt b) := by
  cases h with
  | mk v st hv hst => exact .mk v b hv hb

theorem Alike.setPix (p : PixelBuffer) : Alike hidden sound (s.setPix p) (s'.setPix p) := by
  cases h with
  | mk v st hv hst => exact .mk v st hv hst

theorem Alike.issue (call : CapCall) : Alike hidden sound (s.issue call) (s'.issue call) := by
  cases h with
  | mk v st hv hst => exact .mk v st hv hst

theorem Alike.setCell (a : Nat) (b : Byte) : Alike hidden sound (s.setCell a b) (s'.setCell a b) := by
  cases h with
  | mk v st hv hst => exact .mk v st hv hst

theorem Alike.enterFault (at? : Option Word) (f : FaultKind) :
    Alike hidden sound (s.enterFault at? f) (s'.enterFault at? f) := by
  cases h with
  | mk v st hv hst => exact .mk v st hv hst

theorem Alike.skipIf (c : Bool) : Alike hidden sound (s.skipIf c) (s'.skipIf c) := by
  cases h with
  | mk v st hv hst => cases c <;> exact .mk v st hv hst

theorem Alike.setCells (a : Nat) (bytes : List Byte) :
    Alike hidden sound (s.setCells a bytes) (s'.setCells a bytes) := by
  induction bytes generalizing a s s' with
  | nil => exact h
  | cons b bytes ih => exact ih (h.setCell a b) (a + 1)

theorem Alike.setRegs (xs : List Reg) (bytes : List Byte) :
    Alike hidden sound (s.setRegs xs bytes) (s'.setRegs xs bytes) := by
  induction xs generalizing bytes s s' with
  | nil => exact h
  | cons x xs ih =>
    cases bytes with
    | nil => exact h
    | cons b bytes => exact ih (h.setV x b) bytes

theorem Alike.writeArith (x : Reg) (b : Byte) (f : Bool) :
    Alike hidden sound (s.writeArith x b f) (s'.writeArith x b f) := by
  unfold State.writeArith
  rw [h.config]
  split
  · exact (h.setV x b).setV vf _
  · exact (h.setV vf _).setV x b

/-- The shifted register is no hidden one, so it reads the same in both, the flag written or not. -/
theorem Alike.writeShift {x : Reg} (hx : ¬hidden x) (g : Byte → Byte) (f : Byte → Bool) :
    Alike hidden sound (s.writeShift x g f) (s'.writeShift x g f) := by
  unfold State.writeShift
  rw [h.config, h.reg hx]
  have hflag : Alike hidden sound (s.setFlag (f s.v[x])) (s'.setFlag (f s.v[x])) := h.setV vf _
  split
  · rw [hflag.reg hx]
    exact hflag.setV x _
  · exact (h.setV x _).setV vf _

theorem Alike.drawSprite (x0 y0 : Nat) (rows : List Byte) :
    Alike hidden sound (s.drawSprite x0 y0 rows) (s'.drawSprite x0 y0 rows) := by
  unfold State.drawSprite
  rw [h.config, h.pix]
  exact (h.setV vf _).setPix _

end AlikeUpdates

section AlikeReads

variable {hidden : Reg → Prop} {sound : Byte → Byte → Prop} {s s' : State} (h : Alike hidden sound s s')
include h

theorem ResultsAlike.raiseHere (f : FaultKind) : ResultsAlike hidden sound (raiseHere f s) (raiseHere f s') := by
  unfold Machine.raiseHere
  rw [h.instrAddr]
  exact .next (h.enterFault _ f)

theorem ResultsAlike.readItem {α : Type} {it : Item} {a : α} {k k' : α → Result}
    (hk : ResultsAlike hidden sound (k a) (k' a)) :
    ResultsAlike hidden sound (readItem it a s k) (readItem it a s' k') := by
  have hblank : s'.blank = s.blank := by cases h; rfl
  unfold Machine.readItem
  rw [hblank]
  split
  · exact .raiseHere h _
  · exact hk

theorem ResultsAlike.readV {x : Reg} (hx : ¬hidden x) {k k' : Byte → Result}
    (hk : ResultsAlike hidden sound (k s.v[x]) (k' s.v[x])) :
    ResultsAlike hidden sound (readV x s k) (readV x s' k') := by
  unfold Machine.readV
  rw [h.reg hx]
  exact .readItem h hk

theorem ResultsAlike.readIndex {k k' : Word → Result} (hk : ResultsAlike hidden sound (k s.index) (k' s.index)) :
    ResultsAlike hidden sound (readIndex s k) (readIndex s' k') := by
  unfold Machine.readIndex
  rw [h.index]
  exact .readItem h hk

theorem ResultsAlike.readRegs {xs : List Reg} (hxs : ∀ x ∈ xs, ¬hidden x) {k k' : List Byte → Result}
    (hk : ∀ bytes, ResultsAlike hidden sound (k bytes) (k' bytes)) :
    ResultsAlike hidden sound (readRegs xs s k) (readRegs xs s' k') := by
  induction xs generalizing k k' with
  | nil => exact hk []
  | cons x xs ih =>
    obtain ⟨hx, hxs⟩ := List.forall_mem_cons.1 hxs
    exact .readV h hx (ih hxs fun bytes => hk (s.v[x] :: bytes))

theorem ResultsAlike.readCells {as : List Nat} {k k' : List Byte → Result}
    (hk : ∀ bytes, ResultsAlike hidden sound (k bytes) (k' bytes)) :
    ResultsAlike hidden sound (readCells as s k) (readCells as s' k') := by
  induction as generalizing k k' with
  | nil => exact hk []
  | cons a as ih =>
    unfold Machine.readCells readCell
    rw [h.cell, h.instrAddr]
    split
    · exact ih fun bytes => hk (_ :: bytes)
    · exact .next (h.enterFault _ _)

theorem ResultsAlike.checkAll {check : Nat → Option FaultKind} {addrs : List Nat} {k k' : Result}
    (hk : ResultsAlike hidden sound k k') :
    ResultsAlike hidden sound (checkAll check addrs s k) (checkAll check addrs s' k') := by
  unfold Machine.checkAll
  split
  · exact .raiseHere h _
  · exact hk

theorem ResultsAlike.readBlock {n : Nat} {k k' : List Byte → Result}
    (hk : ∀ bytes, ResultsAlike hidden sound (k bytes) (k' bytes)) :
    ResultsAlike hidden sound (readBlock n s k) (readBlock n s' k') := by
  unfold Machine.readBlock
  split
  · exact hk []
  · exact .readIndex h (.checkAll h (.readCells h hk))

theorem ResultsAlike.withWritable {n : Nat} {k k' : Nat → Result}
    (hk : ResultsAlike hidden sound (k s.index.toNat) (k' s.index.toNat)) :
    ResultsAlike hidden sound (withWritable n s k) (withWritable n s' k') := by
  unfold Machine.withWritable
  rw [h.config]
  exact .readIndex h (.checkAll h hk)

theorem ResultsAlike.readKey {b : Byte} {k k' : Key → Result} (hk : ∀ key, ResultsAlike hidden sound (k key) (k' key)) :
    ResultsAlike hidden sound (readKey b s k) (readKey b s' k') := by
  unfold Machine.readKey
  split
  · exact hk _
  · exact .raiseHere h _

theorem ResultsAlike.request {α : Type} {at? : Option Word} {call : CapCall} {r : Response α}
    {k k' : α → State → Result}
    (hk : ∀ a, ResultsAlike hidden sound (k a (s.issue call)) (k' a (s'.issue call))) :
    ResultsAlike hidden sound (request at? call r s k) (request at? call r s' k') := by
  cases r with
  | returns a => exact hk a
  | fails => exact .next ((h.issue call).enterFault _ _)
  | noAnswer => exact .fault _

theorem ResultsAlike.askKey {x : Reg} (hx : ¬hidden x) {k k' : Bool → State → Result}
    (hk : ∀ key down, ResultsAlike hidden sound (k down (s.issue (.isKeyPressed key)))
      (k' down (s'.issue (.isKeyPressed key)))) :
    ResultsAlike hidden sound (askKey x s k) (askKey x s' k') := by
  unfold Machine.askKey
  rw [h.answers, h.instrAddr]
  exact .readV h hx (.readKey h fun key => .request h fun keys => hk key _)

theorem ResultsAlike.execCall (nnn : Addr12) : ResultsAlike hidden sound (execCall nnn s) (execCall nnn s') := by
  cases h with
  | mk v st hv hst =>
    have h : Alike hidden sound s { s with v := v, st := st } := .mk v st hv hst
    unfold Machine.execCall
    split
    · exact .next (.mk v st hv hst)
    · exact .raiseHere h _

theorem ResultsAlike.execRet : ResultsAlike hidden sound (execRet s) (execRet s') := by
  cases h with
  | mk v st hv hst =>
    have h : Alike hidden sound s { s with v := v, st := st } := .mk v st hv hst
    unfold Machine.execRet readStack
    split
    · exact .raiseHere h _
    · split
      · exact .readItem h (.next (.mk v st hv hst))
      · exact .raiseHere h _

/-- An instruction reads no V register that it does not name as a source, and no sound timer: of two states alike but
for these it makes two results alike. Only LD ST makes the two timers equal. -/
theorem exec_alike {i : Instr} (hsrc : ∀ r ∈ i.sourceRegs s.config, ¬hidden r)
    (hst : (∃ x, i = .ldStVx x) → ∀ b, sound b b) : ResultsAlike hidden sound (exec i s) (exec i s') := by
  cases i <;> simp only [exec] <;>
    simp only [Instr.sourceRegs, List.forall_mem_cons, List.not_mem_nil, false_implies, implies_true, and_true] at hsrc
  case sys => exact .next h
  case cls => exact .next (h.setPix _)
  case ret => exact .execRet h
  case jp => exact .next (h.setPc _)
  case call => exact .execCall h _
  case seImm | sneImm => exact .readV h hsrc (.next (h.skipIf _))
  case seReg | sneReg =>
    obtain ⟨hx, hy⟩ := hsrc
    exact .readV h hx (.readV h hy (.next (h.skipIf _)))
  case ldImm => exact .next (h.setV _ _)
  case addImm | ldReg => exact .readV h hsrc (.next (h.setV _ _))
  case or | and | xor =>
    obtain ⟨hx, hy⟩ := hsrc
    exact .readV h hx (.readV h hy (.next (h.setV _ _)))
  case addReg | subReg =>
    obtain ⟨hx, hy⟩ := hsrc
    exact .readV h hx (.readV h hy (.next (h.writeArith _ _ _)))
  case subn =>
    obtain ⟨hx, hy⟩ := hsrc
    exact .readV h hy (.readV h hx (.next (h.writeArith _ _ _)))
  case shr | shl => exact .readV h hsrc (.next (h.writeShift hsrc _ _))
  case ldI => exact .next (h.setIndex _)
  case jpOff =>
    unfold execJpOff
    rw [h.config]
    exact .readV h hsrc (.next (h.setPc _))
  case rnd =>
    unfold execRnd
    rw [h.answers]
    exact .next (h.setV _ _)
  case drw =>
    obtain ⟨hx, hy⟩ := hsrc
    exact .readV h hx (.readV h hy (.readBlock h fun _ => .next (h.drawSprite _ _ _)))
  case skp | sknp => exact .askKey h hsrc fun _ _ => .next ((h.issue _).skipIf _)
  case ldVxDt =>
    unfold execLdVxDt
    rw [h.dt]
    exact .next (h.setV _ _)
  case ldVxK =>
    unfold execLdVxK
    rw [h.answers, h.instrAddr]
    refine .request h fun event => ?_
    rw [State.issue_config, State.issue_config, h.config]
    exact .next ((h.issue _).setV _ _)
  case ldDtVx => exact .readV h hsrc (.next (h.setDt _))
  case ldStVx x => exact .readV h hsrc (.next (h.setSt (hst ⟨x, rfl⟩ _)))
  case addI => exact .readIndex h (.readV h hsrc (.next (h.setIndex _)))
  case ldF => exact .readV h hsrc (.next (h.setIndex _))
  case ldB => exact .readV h hsrc (.withWritable h (.next (h.setCells _ _)))
  case storeRegs => exact .withWritable h (.readRegs h hsrc fun _ => .next (h.setCells _ _))
  case loadRegs => exact .readBlock h fun _ => .next (h.setRegs _ _)

end AlikeReads

/-- Results alike but for a sound timer that is `b` on the right: the right one is the left one with `b` in `ST`. -/
theorem ResultsAlike.eq_onNext_st {b : Byte} {r r' : Result}
    (h : ResultsAlike (fun _ => False) (fun _ st => st = b) r r') : r' = onNext (fun t => { t with st := b }) r := by
  cases h with
  | fault f => rfl
  | @next t _ ht =>
    cases ht with
    | mk v st hv hst =>
      have hvt : v = t.v := Vector.ext fun k hk => hv ⟨k, hk⟩ not_false
      simp only [onNext_next, hvt, hst]

/-- Settles O47: two states that differ in `ST` alone give results that do. -/
theorem soundTimerIsNeverRead : Obligations.SoundTimerIsNeverRead := by
  unfold Obligations.SoundTimerIsNeverRead
  intro i s b hi
  have h : Alike (fun _ => False) (fun _ st => st = b) s { s with st := b } := .mk s.v b (fun _ _ => rfl) rfl
  exact (exec_alike h (by simp) fun ⟨x, hx⟩ => absurd hx (hi x)).eq_onNext_st

/-! ## VF (R21) -/

theorem Instr.writesFlag_iff {i : Instr} : i.writesFlag = true ↔
    (∃ x y, i = .addReg x y ∨ i = .subReg x y ∨ i = .shr x y ∨ i = .subn x y ∨ i = .shl x y) ∨
      ∃ x y n, i = .drw x y n := by
  cases i <;> simp [Instr.writesFlag]

theorem flagByte_bit (f : Bool) : flagByte f = 0 ∨ flagByte f = 1 := by
  cases f
  · exact .inl rfl
  · exact .inr rfl

/-- An instruction that writes a flag leaves VF written, with the flag unless VF is its destination too. -/
theorem Completion.flag {i : Instr} {s t : State} (hc : Completion i s t) (hf : i.writesFlag = true) :
    Item.v 15 ∉ t.blank ∧ (15 ∉ i.namedDest → t.v[15] = 0 ∨ t.v[15] = 1) := by
  cases i <;> simp only [Completion] at hc
  case addReg x y | subReg x y | subn x y =>
    subst hc
    refine ⟨by simp [mem_blank_writeArith], fun hd => ?_⟩
    have hx : x ≠ 15 := by simpa [Instr.namedDest, eq_comm] using hd
    rw [State.writeArith_flag (.inl hx)]
    exact flagByte_bit _
  case shr x y | shl x y =>
    subst hc
    refine ⟨by simp [mem_blank_writeShift], fun hd => ?_⟩
    have hx : x ≠ 15 := by simpa [Instr.namedDest, eq_comm] using hd
    rw [(State.writeShift_apart hx _ _ s).2]
    exact flagByte_bit _
  case drw =>
    obtain ⟨rows, -, -, -, rfl⟩ := hc
    refine ⟨by simp [mem_blank_drawSprite], fun _ => ?_⟩
    simpa [State.drawSprite, State.setFlag] using flagByte_bit _
  all_goals simp [Instr.writesFlag] at hf

/-- `VF` blotted out: what `FlagRegisterDiscipline` compares two states by. -/
def State.blotVf (s : State) : State := { s with v := s.v.set 15 0 }

theorem Alike.blotVf {s s' : State} (h : Alike (· = 15) Eq s s') : s'.blotVf = s.blotVf := by
  cases h with
  | mk v st hv hst =>
    have hset : v.set 15 0 = s.v.set 15 0 := Vector.ext fun k hk => by
      simp only [Vector.getElem_set]
      split
      · rfl
      · next hne => exact hv ⟨k, hk⟩ fun e => hne (congrArg Fin.val e).symm
    simp only [State.blotVf, hset, hst]

theorem ResultsAlike.blotVf {r r' : Result} (h : ResultsAlike (· = 15) Eq r r') :
    onNext State.blotVf r' = onNext State.blotVf r := by
  cases h with
  | next h => simp only [onNext_next, h.blotVf]
  | fault f => rfl

/-- Settles O43: who writes VF is the register frame read at 15, and two states that differ in VF alone are alike to an
instruction that does not name it as a source. -/
theorem flagRegisterDiscipline : Obligations.FlagRegisterDiscipline := by
  unfold Obligations.FlagRegisterDiscipline
  refine ⟨fun i s t h hne => ?_, fun i s t h hf hrun => ?_, fun i s b hsrc => ?_⟩
  · by_contra hno
    obtain ⟨hd, hf⟩ := not_or.1 hno
    rw [← Instr.writesFlag_iff] at hf
    exact hne (exec_sameReg h hd fun hw => hf hw.2).1
  · cases exec_cases h with
    | faults f => exact absurd rfl hrun
    | callFails call _ => exact absurd rfl hrun
    | completes _ _ hc => exact hc.flag hf
  · have h : Alike (· = 15) Eq s { s with v := s.v.set 15 b } :=
      .mk _ s.st (fun r hr => Vector.getElem_set_ne _ _ (Reg.val_ne hr).symm) rfl
    exact (exec_alike h (fun r hr e => hsrc (e ▸ hr)) fun _ _ => rfl).blotVf

/-! ## Outside an instruction cycle (R36) -/

/-- The state is `s` but for the timers and what the scheduler itself keeps. -/
inductive SchedulerOnly (s : State) : State → Prop where
  | mk (dt st : Byte) (gate : SoundGate) (phase : Phase) (record : Option FaultRecord) (calls : List CapCall)
      (inputs : List Answers) (draws : Nat) :
      SchedulerOnly s { s with
        dt := dt, st := st, soundGate := gate, phase := phase, faultRecord := record, calls := calls, inputs := inputs,
        draws := draws }

/-- What R36 says of a step from `s` to `t`: the timers count as engine state, and only a tick writes them. -/
def OnlyTickWrites (s t : State) : Prop :=
  SchedulerOnly s t ∧ (t.dt ≠ s.dt ∨ t.st ≠ s.st → s.phase = .service ∧ s.answers.tickDue = true)

theorem OnlyTickWrites.of_timers_eq {s t : State} (h : SchedulerOnly s t) (hdt : t.dt = s.dt) (hst : t.st = s.st) :
    OnlyTickWrites s t := ⟨h, by simp [hdt, hst]⟩

section SchedulerUpdates

variable {s t : State}

theorem SchedulerOnly.refl (s : State) : SchedulerOnly s s := .mk ..

variable (h : SchedulerOnly s t)
include h

theorem SchedulerOnly.eq_update : t = { s with
    dt := t.dt, st := t.st, soundGate := t.soundGate, phase := t.phase, faultRecord := t.faultRecord,
    calls := t.calls, inputs := t.inputs, draws := t.draws } := by cases h; rfl

theorem SchedulerOnly.issue (call : CapCall) : SchedulerOnly s (t.issue call) := by cases h; exact .mk ..

theorem SchedulerOnly.enterFault (at? : Option Word) (f : FaultKind) : SchedulerOnly s (t.enterFault at? f) := by
  cases h; exact .mk ..

theorem SchedulerOnly.setPhase (p : Phase) : SchedulerOnly s (t.setPhase p) := by cases h; exact .mk ..

theorem SchedulerOnly.setGate (g : SoundGate) : SchedulerOnly s (t.setGate g) := by cases h; exact .mk ..

theorem SchedulerOnly.decrementTimers : SchedulerOnly s t.decrementTimers := by cases h; exact .mk ..

theorem SchedulerOnly.nextAnswers : SchedulerOnly s t.nextAnswers := by cases h; exact .mk ..

theorem SchedulerOnly.afterService (a : Answers) : SchedulerOnly s (t.afterService a) := by
  rcases State.afterService_cases a t with e | e <;> rw [e]
  · exact h.setPhase _
  · exact h

end SchedulerUpdates

theorem SchedulerOnly.of_clearCalls {s t : State} (h : SchedulerOnly s.clearCalls t) : SchedulerOnly s t := by
  cases h; exact .mk ..

theorem servicePhase_onlyTickWrites {s : State} (hp : s.phase = .service) :
    Ensures (OnlyTickWrites s) (servicePhase s) := by
  have hdrawn := (SchedulerOnly.refl s).issue .drawScreen
  refine .servicePhase ?_ (fun timeout => ?_) (fun timeout _ => ?_) (fun timeout gate hdue => ?_)
    fun timeout call gate hdue => ?_
  · exact .of_timers_eq (hdrawn.enterFault _ _) rfl rfl
  · exact .of_timers_eq ((hdrawn.issue _).enterFault _ _) rfl rfl
  · exact .of_timers_eq ((hdrawn.issue _).afterService _) (by simp) (by simp)
  · exact ⟨((hdrawn.issue _).decrementTimers.issue _).enterFault _ _, fun _ => ⟨hp, hdue⟩⟩
  · exact ⟨(((hdrawn.issue _).decrementTimers.issue _).setGate _).afterService _, fun _ => ⟨hp, hdue⟩⟩

theorem runPhase_onlyTickWrites {s : State} (hx : s.phase ≠ .execute) : Ensures (OnlyTickWrites s) (runPhase s) := by
  have hcall (call : CapCall) := (SchedulerOnly.refl s).issue call
  have hfails (call : CapCall) : OnlyTickWrites s ((s.issue call).enterFault none (.capability call)) :=
    .of_timers_eq ((hcall call).enterFault _ _) rfl rfl
  have hmoves (call : CapCall) (p : Phase) : OnlyTickWrites s ((s.issue call).setPhase p) :=
    .of_timers_eq ((hcall call).setPhase p) rfl rfl
  unfold runPhase
  split
  next => exact .initPhase (hfails _) (hmoves _ _)
  next => exact .checkPhase (hfails _) fun _ => hmoves _ _
  next hp => exact servicePhase_onlyTickWrites hp
  next hp => exact absurd hp hx
  next => exact .finalPhase (hfails _) (hmoves _ _)
  next => exact .refused
  next => exact .fault

/-- Settles O51: the phases other than EXECUTE make calls and move on; the tick of SERVICE alone touches the timers. -/
theorem onlyTicksWriteOutsideExecutor : Obligations.OnlyTicksWriteOutsideExecutor := by
  unfold Obligations.OnlyTicksWriteOutsideExecutor
  intro s t hstep hx
  obtain ⟨u, hrun, rfl⟩ := onNext_eq_next hstep
  obtain ⟨hrest, htick⟩ := runPhase_onlyTickWrites (s := s.clearCalls) hx u hrun
  exact ⟨hrest.of_clearCalls.nextAnswers.eq_update, htick⟩

end Sys2Proof.Machine

/-! # 20_memory.md: address checks, the frame of memory, the glyph region and the fetch -/

namespace Sys2Proof.Machine

/-! ## Blocks that pass the end of memory (R55 to R57, R153) -/

theorem readFault_pastMemory {a : Nat} (ha : memSize ≤ a) : readFault a = some (.memRange a) :=
  if_neg (Nat.not_lt.2 ha)

theorem writeFault_pastMemory {a : Nat} (c : Config) (ha : memSize ≤ a) : writeFault c a = some (.memRange a) :=
  if_pos ha

/-- A block that passes the end of memory, under a check that stops only what lies beyond: the lowest failing address is
the first beyond the end, or the block's own start. -/
theorem checkAll_pastMemory {check : Nat → Option FaultKind} {w : Word} {n : Nat}
    (hpast : ∀ a, memSize ≤ a → check a = some (.memRange a))
    (hin : ∀ a, w.toNat ≤ a → a < memSize → check a = none)
    (hn : 1 ≤ n) (h : 0xFFF < w.toNat + (n - 1)) (s : State) (k : Result) :
    checkAll check (cellsFrom w n) s k = raiseHere (.memRange (max w.toNat 0x1000)) s := by
  have haddr : w.toNat + (max w.toNat 0x1000 - w.toNat) = max w.toNat 0x1000 := by omega
  refine checkAll_fail (j := max w.toNat 0x1000 - w.toNat) (by omega) ?_ (fun j hj => hin _ (by omega) ?_) s k
  · rw [haddr]
    exact hpast _ (Nat.le_max_right _ _)
  · simp only [memSize]; omega

theorem readBlock_pastMemory {n : Nat} {s : State} (hi : Item.index ∉ s.blank) (hn : 1 ≤ n)
    (h : 0xFFF < s.index.toNat + (n - 1)) (k : List Byte → Result) :
    readBlock n s k = raiseHere (.memRange (max s.index.toNat 0x1000)) s := by
  unfold readBlock
  rw [if_neg (by omega), readIndex_held hi]
  exact checkAll_pastMemory (fun _ => readFault_pastMemory) (fun _ _ => readFault_none.2) hn h s _

/-- A block of at most sixteen cells that passes the end of memory starts far above the glyph region. -/
theorem withWritable_pastMemory {n : Nat} {s : State} (hi : Item.index ∉ s.blank) (hn : 1 ≤ n) (hn16 : n ≤ 16)
    (h : 0xFFF < s.index.toNat + (n - 1)) (k : Nat → Result) :
    withWritable n s k = raiseHere (.memRange (max s.index.toNat 0x1000)) s := by
  unfold withWritable
  rw [readIndex_held hi]
  refine checkAll_pastMemory (fun _ => writeFault_pastMemory s.config) (fun a hle hlt => ?_) hn h s _
  exact writeFault_none.2 ⟨hlt, .inl (by simp only [glyphBytes]; omega)⟩

/-- Settles O34: each of the four hands its block to `readBlock` or `withWritable` once its first registers are read. -/
theorem accessPastMemoryFaults : Obligations.AccessPastMemoryFaults := by
  unfold Obligations.AccessPastMemoryFaults
  intro i s len hr hlen hi hpast
  rcases hi with ⟨x, rfl, rfl⟩ | ⟨x, rfl, rfl⟩ | ⟨x, rfl, rfl⟩ | ⟨x, y, n, rfl, rfl⟩
  · simp only [Instr.Readable, Instr.firstReads, List.forall_mem_cons] at hr
    obtain ⟨hx, hindex, -⟩ := hr
    simp only [exec, execLdB, readV_held hx]
    exact withWritable_pastMemory hindex hlen (by decide) hpast _
  · have hindex : Item.index ∉ s.blank := hr _ (by simp [Instr.firstReads])
    simp only [exec, execStoreRegs]
    exact withWritable_pastMemory hindex hlen x.isLt hpast _
  · have hindex : Item.index ∉ s.blank := hr _ (by simp [Instr.firstReads])
    simp only [exec, execLoadRegs]
    exact readBlock_pastMemory hindex hlen hpast _
  · have hn : n.val ≠ 0 := by omega
    simp only [Instr.Readable, Instr.firstReads, if_neg hn, List.forall_mem_cons] at hr
    obtain ⟨hx, hy, hindex, -⟩ := hr
    simp only [exec, execDrw, readV_held hx, readV_held hy]
    exact readBlock_pastMemory hindex hlen hpast _

/-! ## Stores at an `I` in the glyph region (R56, R62) -/

theorem writeFault_glyph {c : Config} {a : Nat} (ha : a < glyphBytes) (hp : c.glyphWritePolicy = .fault) :
    writeFault c a = some (.glyphWrite a) := by
  unfold writeFault
  rw [if_neg (by simp only [memSize, glyphBytes] at *; omega), if_pos ⟨ha, hp⟩]

/-- The first address of the block is the lowest one that fails. -/
theorem withWritable_glyph {n : Nat} {s : State} (hi : Item.index ∉ s.blank) (hn : 0 < n)
    (ha : s.index.toNat < glyphBytes) (hp : s.config.glyphWritePolicy = .fault) (k : Nat → Result) :
    withWritable n s k = raiseHere (.glyphWrite s.index.toNat) s := by
  unfold withWritable
  rw [readIndex_held hi]
  exact checkAll_fail hn (writeFault_glyph ha hp) (by simp) s _

/-- Settles O35: both stores check their block by `withWritable` before they write or read a stored register. -/
theorem glyphStoreFaults : Obligations.GlyphStoreFaults := by
  unfold Obligations.GlyphStoreFaults
  rintro i s hr ⟨x, rfl | rfl⟩ ha hp
  · simp only [Instr.Readable, Instr.firstReads, List.forall_mem_cons] at hr
    obtain ⟨hx, hindex, -⟩ := hr
    simp only [exec, execLdB, readV_held hx]
    exact withWritable_glyph hindex (by decide) ha hp _
  · have hindex : Item.index ∉ s.blank := hr _ (by simp [Instr.firstReads])
    simp only [exec, execStoreRegs]
    exact withWritable_glyph hindex (Nat.succ_pos _) ha hp _

/-! ## The cells an instruction leaves alone (R50, R54) -/

/-- A block of stores from `I` on changes no cell outside the block. -/
theorem cell_setCells_outside {s : State} {w : Word} {bytes : List Byte} {a : Nat}
    (ha : a ∉ cellsFrom w bytes.length) : (s.setCells w.toNat bytes).cell a = s.cell a := by
  rw [State.cell_setCells, dif_neg fun h => ha (mem_cellsFrom.2 h)]

theorem Completion.cell {i : Instr} {s t : State} {a : Nat} (hc : Completion i s t) (ha : a ∉ i.storedCells s) :
    t.cell a = s.cell a := by
  obtain ⟨-, -, -, hconfig, -⟩ := hc.control
  cases i <;> simp only [Completion] at hc
  case ldB => obtain ⟨-, rfl⟩ := hc; exact cell_setCells_outside ha
  case storeRegs x =>
    obtain ⟨-, -, rfl⟩ := hc
    exact cell_setCells_outside (by simpa [Instr.storedCells] using ha)
  case ret => obtain ⟨j, -, -, rfl⟩ := hc; rfl
  case call => obtain ⟨j, -, rfl⟩ := hc; rfl
  case skp | sknp => obtain ⟨key, -, down, rfl⟩ := hc; exact State.cell_congr (by simp) hconfig a
  case ldVxK => obtain ⟨event, rfl⟩ := hc; rfl
  case loadRegs => obtain ⟨bytes, -, -, -, rfl⟩ := hc; exact State.cell_congr (by simp) hconfig a
  case drw => obtain ⟨rows, -, -, -, rfl⟩ := hc; rfl
  all_goals subst hc; exact State.cell_congr (by simp) hconfig a

theorem ExecNext.cell {i : Instr} {s t : State} {a : Nat} (hx : ExecNext i s t) (ha : a ∉ i.storedCells s) :
    t.cell a = s.cell a := by
  cases hx with
  | faults f => rfl
  | callFails call _ => rfl
  | completes _ _ hc => exact hc.cell ha

/-- Settles O44: a fault touches no cell, a completion only those it stores to. -/
theorem memoryFrame : Obligations.MemoryFrame := by
  unfold Obligations.MemoryFrame
  exact fun i s t a h ha => (exec_cases h).cell ha

/-! ## The glyph region under the default policy (R62, decision D6) -/

/-- An instruction that completes has found every cell it stores to writable. -/
theorem Completion.storedCells_writable {i : Instr} {s t : State} {a : Nat} (hc : Completion i s t)
    (ha : a ∈ i.storedCells s) : writeFault s.config a = none := by
  cases i <;> simp only [Completion] at hc
  case ldB => obtain ⟨hw, -⟩ := hc; exact hw a ha
  case storeRegs => obtain ⟨hw, -⟩ := hc; exact hw a ha
  all_goals exact absurd ha List.not_mem_nil

theorem ExecNext.glyph {i : Instr} {s t : State} {a : Nat} (hx : ExecNext i s t)
    (hp : s.config.glyphWritePolicy = .fault) (ha : a < glyphBytes) : t.cell a = s.cell a := by
  cases hx with
  | faults f => rfl
  | callFails call _ => rfl
  | completes _ _ hc =>
    refine hc.cell fun hstored => ?_
    have hw := hc.storedCells_writable hstored
    rw [writeFault_glyph ha hp] at hw
    cases hw

theorem State.cell_afterCycle (s : State) (a : Nat) : s.afterCycle.cell a = s.cell a :=
  State.cell_congr (by simp) (by simp) a

theorem SchedulerOnly.cell {s t : State} (h : SchedulerOnly s t) (a : Nat) : t.cell a = s.cell a := by
  cases h; rfl

theorem executePhase_glyph {s : State} {a : Nat} (hp : s.config.glyphWritePolicy = .fault) (ha : a < glyphBytes) :
    Ensures (fun t => t.cell a = s.cell a) (executePhase s) :=
  .executePhase (fun _ => rfl) (fun _ => rfl) fun _ t _ hx => (t.cell_afterCycle a).trans (hx.glyph hp ha)

/-- Settles O56: of all phases EXECUTE alone reaches memory, and there `MemWrite`'s check guards the region. -/
theorem glyphRegionIsImmutable : Obligations.GlyphRegionIsImmutable := by
  unfold Obligations.GlyphRegionIsImmutable
  intro s t a hstep hp ha
  by_cases hx : s.phase = .execute
  · rw [step_execute hx] at hstep
    obtain ⟨u, hrun, rfl⟩ := onNext_eq_next hstep
    exact executePhase_glyph (s := s.clearCalls) hp ha u hrun
  · obtain ⟨u, hrun, rfl⟩ := onNext_eq_next hstep
    obtain ⟨hrest, -⟩ := runPhase_onlyTickWrites (s := s.clearCalls) hx u hrun
    exact hrest.cell a

/-! ## Faults before an instruction executes (R59, R80, R87) -/

theorem fetch_pastMemory {s : State} (h : memSize ≤ s.pc.toNat + 1) (k : Word → Result) :
    fetch s k = raise (some s.pc) (.fetchRange s.pc) s := if_pos h

/-- The first of the two cells that holds no value, in the order in which they are read. -/
theorem fetch_unwritten {s : State} {a : Nat} (hr : s.pc.toNat + 1 < memSize) (hcell : s.cell a = none)
    (ha : a = s.pc.toNat ∨ (a = s.pc.toNat + 1 ∧ s.cell s.pc.toNat ≠ none)) (k : Word → Result) :
    fetch s k = raise (some s.pc) (.unwritten (.cell a)) s := by
  unfold fetch
  rw [if_neg (Nat.not_le.2 hr)]
  rcases ha with rfl | ⟨rfl, hfirst⟩
  · simp only [readCell, hcell]
  · obtain ⟨b, hb⟩ := Option.ne_none_iff_exists'.1 hfirst
    simp only [readCell, hb, hcell]

theorem decodeAndExecute_reject {w : Word} {e : DecodeReject} (h : decode w = .error e) (s : State) :
    decodeAndExecute w s = raiseHere (.decode w) s := by
  simp only [decodeAndExecute, h]

/-- A word that does not decode stops the cycle with `pc` past it, and the record names where it was fetched. -/
theorem executePhase_reject {s : State} {hi lo : Byte} {e : DecodeReject} (hr : s.pc.toNat + 1 < memSize)
    (hhi : s.cell s.pc.toNat = some hi) (hlo : s.cell (s.pc.toNat + 1) = some lo)
    (he : decode (wordOfBytes hi lo) = .error e) :
    executePhase s = raise (some s.pc) (.decode (wordOfBytes hi lo)) s.advance := by
  rw [executePhase, fetch_held hr hhi hlo, decodeAndExecute_reject he, raiseHere, State.instrAddr_advance]
  exact congrArg Host.Outcome.next (State.afterCycle_faulted rfl)

/-- Settles O6: the range check, the two cells and the decoder, in that order. -/
theorem fetchAndDecodeFaults : Obligations.FetchAndDecodeFaults := by
  unfold Obligations.FetchAndDecodeFaults
  intro s hs
  rw [step_execute hs]
  refine ⟨fun hpast => ?_, fun a hr hcell ha => ?_, fun hi lo e hr hhi hlo he => ?_⟩
  · rw [executePhase, fetch_pastMemory (s := s.clearCalls) hpast]
    rfl
  · rw [executePhase, fetch_unwritten (s := s.clearCalls) (Nat.lt_succ_of_le hr) hcell ha]
    rfl
  · rw [executePhase_reject (s := s.clearCalls) (Nat.lt_succ_of_le hr) hhi hlo he]
    rfl

end Sys2Proof.Machine

/-! # 30_encoding.md: the decoder against the encoder, the illegal words and the instruction cycle -/

namespace Sys2Proof

/-! ## From the encoding back to the instruction (R82, R85, R86) -/

theorem decodeBytes_encodeBytes {i : Instr} (h : decode (encode i) = .ok i) (rest : List Byte) :
    decodeBytes (encodeBytes i ++ rest) = .ok (i, rest) := by
  simp only [encodeBytes, List.cons_append, List.nil_append, decodeBytes, wordOfBytes_high_low, h]

theorem Instr.wellFormed_sys {nnn : Addr12} :
    (Instr.sys nnn).wellFormed = true ↔ nnn ≠ 0x0E0#12 ∧ nnn ≠ 0x0EE#12 := by
  simp [Instr.wellFormed, Instr.notClsWord, Instr.notRetWord]

/-- A SYS word is one of the two exact words of its family only if its operand is. -/
theorem packNNN_zero_eq {nnn a : Addr12} : packNNN 0x0 nnn = packNNN 0x0 a ↔ nnn = a :=
  ⟨fun h => by rw [← fieldNNN_packNNN 0x0 nnn, h, fieldNNN_packNNN], fun h => h ▸ rfl⟩

theorem decodeSystem_packNNN {nnn : Addr12} (hcls : nnn ≠ 0x0E0#12) (hret : nnn ≠ 0x0EE#12) :
    decodeSystem (packNNN 0x0 nnn) = .sys nnn := by
  have hclsWord : packNNN 0x0 nnn ≠ 0x00E0#16 := fun h => hcls (packNNN_zero_eq.1 h)
  have hretWord : packNNN 0x0 nnn ≠ 0x00EE#16 := fun h => hret (packNNN_zero_eq.1 h)
  rw [decodeSystem, if_neg hclsWord, if_neg hretWord, fieldNNN_packNNN]

/-- The fields of a packed word are the operands it was packed from, so the selectors pick the instruction's own arm. -/
theorem decode_encode {i : Instr} (h : i.wellFormed = true) : decode (encode i) = .ok i := by
  cases i with
  | sys nnn =>
    obtain ⟨hcls, hret⟩ := Instr.wellFormed_sys.1 h
    have hsystem := decodeSystem_packNNN hcls hret
    simpa [encode, decode] using hsystem
  | cls | ret => rfl
  | jp | call | ldI | jpOff => simp [encode, decode]
  | seImm | sneImm | ldImm | addImm | rnd => simp [encode, decode]
  | seReg | drw => simp [encode, decode]
  | ldReg | or | and | xor | addReg | subReg | shr | subn | shl => simp [encode, decode, decodeAlu]
  | sneReg => simp [encode, decode, decodeSneReg]
  | skp | sknp => simp [encode, decode, decodeKey]
  | ldVxDt | ldVxK | ldDtVx | ldStVx | addI | ldF | ldB | storeRegs | loadRegs => simp [encode, decode, decodeMisc]

/-- Settles O1: the two bytes are the word again, and the word decodes to the instruction. -/
theorem decodeInvertsEncode : Obligations.DecodeInvertsEncode := by
  unfold Obligations.DecodeInvertsEncode
  exact fun i rest h => decodeBytes_encodeBytes (decode_encode h) rest

/-! ## From a word that decodes back to the word (R83 to R86, R89) -/

theorem topNibble_lt (w : Word) : topNibble w < 0x10 := (w.extractLsb' 12 4).isLt

section Repacking

variable {w : Word} {op : BitVec 4}

theorem packNNN_fields (htop : topNibble w = op.toNat) : packNNN op (fieldNNN w) = w := by
  rw [topNibble_eq] at htop
  apply BitVec.eq_of_toNat_eq
  rw [packNNN_toNat, fieldNNN_toNat]; omega

theorem packXKK_fields (htop : topNibble w = op.toNat) : packXKK op (fieldX w) (fieldKK w) = w := by
  rw [topNibble_eq] at htop
  apply BitVec.eq_of_toNat_eq
  rw [packXKK_toNat, fieldX_val, fieldKK_toNat]; omega

theorem packXYN_fields (htop : topNibble w = op.toNat) : packXYN op (fieldX w) (fieldY w) (fieldN w) = w := by
  rw [topNibble_eq] at htop
  apply BitVec.eq_of_toNat_eq
  rw [packXYN_toNat, fieldX_val, fieldY_val, fieldN_val]; omega

/-- Format XSS: the low byte is the selector. -/
theorem packXSS_fields {kk : Byte} (htop : topNibble w = op.toNat) (hkk : (fieldKK w).toNat = kk.toNat) :
    packXKK op (fieldX w) kk = w := by
  rw [← BitVec.eq_of_toNat_eq hkk, packXKK_fields htop]

/-- Format XYS: the low nibble is the selector. -/
theorem packXYS_fields {n : Count} (htop : topNibble w = op.toNat) (hn : (fieldN w).val = n.val) :
    packXYN op (fieldX w) (fieldY w) n = w := by
  rw [← Fin.ext hn, packXYN_fields htop]

theorem and_clearN (w : Word) : (w &&& 0xFFF0#16).toNat = w.toNat / 0x10 * 0x10 := by
  have hlt := w.isLt
  have hcut := Laws.RowPattern.and_cut 4 (w.toNat / 0x10) (w.toNat % 0x10) 0xFFF 0 (by omega) (by omega)
  have hkeep : w.toNat / 0x10 &&& 0xFFF = w.toNat / 0x10 := by
    rw [show (0xFFF : Nat) = 2 ^ 12 - 1 from rfl, Nat.and_two_pow_sub_one_eq_mod]; omega
  rw [hkeep, Nat.and_zero, show 2 ^ 4 * (w.toNat / 0x10) + w.toNat % 0x10 = w.toNat from Nat.div_add_mod ..] at hcut
  rw [BitVec.toNat_and, show (0xFFF0#16).toNat = 2 ^ 4 * 0xFFF + 0 from rfl, hcut]; omega

/-- Packing 0 in the place of the low nibble clears it (R89). -/
theorem packXYN_clearN (htop : topNibble w = op.toNat) :
    packXYN op (fieldX w) (fieldY w) 0x0 = w &&& 0xFFF0#16 := by
  rw [topNibble_eq] at htop
  apply BitVec.eq_of_toNat_eq
  rw [packXYN_toNat, fieldX_val, fieldY_val, and_clearN, show (0x0 : Count).val = 0 from rfl]; omega

end Repacking

section Families

variable {w : Word} {i : Instr}

theorem encode_decodeSystem (htop : topNibble w = 0x0) :
    (decodeSystem w).wellFormed = true ∧ encode (decodeSystem w) = w := by
  have hw : packNNN 0x0 (fieldNNN w) = w := packNNN_fields htop
  unfold decodeSystem
  split
  next h => exact ⟨rfl, h.symm⟩
  next hcls =>
    split
    next h => exact ⟨rfl, h.symm⟩
    next hret =>
      refine ⟨Instr.wellFormed_sys.2 ⟨fun h => hcls ?_, fun h => hret ?_⟩, hw⟩ <;> rw [← hw, h] <;> rfl

theorem encode_of_decodeAlu (htop : topNibble w = 0x8) (h : decodeAlu w = .ok i) :
    i.wellFormed = true ∧ encode i = w := by
  unfold decodeAlu at h
  split at h <;> cases h <;> exact ⟨rfl, packXYS_fields htop ‹_›⟩

theorem encode_of_decodeSneReg (htop : topNibble w = 0x9) (h : decodeSneReg w = .ok i) :
    i.wellFormed = true ∧ encode i = w := by
  unfold decodeSneReg at h
  split at h <;> cases h
  exact ⟨rfl, packXYS_fields htop ‹_›⟩

theorem encode_of_decodeKey (htop : topNibble w = 0xE) (h : decodeKey w = .ok i) :
    i.wellFormed = true ∧ encode i = w := by
  unfold decodeKey at h
  split at h <;> cases h <;> exact ⟨rfl, packXSS_fields htop ‹_›⟩

theorem encode_of_decodeMisc (htop : topNibble w = 0xF) (h : decodeMisc w = .ok i) :
    i.wellFormed = true ∧ encode i = w := by
  unfold decodeMisc at h
  split at h <;> cases h <;> exact ⟨rfl, packXSS_fields htop ‹_›⟩

end Families

/-- The families by top nibble, those of one format together: arm `h_(k+1)` of `decode` is top nibble `k`. -/
theorem encode_of_decode {w : Word} {i : Instr} (h : decode w = .ok i) :
    i.wellFormed = true ∧ encode i = if topNibble w = 0x5 then w &&& 0xFFF0#16 else w := by
  have hlt := topNibble_lt w
  split
  next htop =>
    simp only [decode, htop, Except.ok.injEq] at h
    subst h
    exact ⟨rfl, packXYN_clearN htop⟩
  next hne =>
    unfold decode at h
    split at h
    case h_6 htop => exact absurd htop hne
    case h_1 htop => cases h; exact encode_decodeSystem htop
    case h_9 htop => exact encode_of_decodeAlu htop h
    case h_10 htop => exact encode_of_decodeSneReg htop h
    case h_15 htop => exact encode_of_decodeKey htop h
    case h_16 =>
      have htop : topNibble w = 0xF := by simp only [imp_false] at *; omega
      exact encode_of_decodeMisc htop h
    case h_2 htop | h_3 htop | h_11 htop | h_12 htop => cases h; exact ⟨rfl, packNNN_fields htop⟩
    case h_4 htop | h_5 htop | h_7 htop | h_8 htop | h_13 htop => cases h; exact ⟨rfl, packXKK_fields htop⟩
    case h_14 htop => cases h; exact ⟨rfl, packXYN_fields htop⟩

/-- Settles O2: a family gives back the fields of the word and its own selector, which pack to the word. -/
theorem encodeInvertsDecode : Obligations.EncodeInvertsDecode := by
  unfold Obligations.EncodeInvertsDecode
  intro w i h
  simpa only [topNibble_eq] using encode_of_decode h

/-! ## The words that do not decode (R87, R88) -/

section IllegalWords

variable (w : Word)

theorem decodeAlu_error_iff :
    (∃ e, decodeAlu w = .error e) ↔ (fieldN w).val ∈ [0x8, 0x9, 0xA, 0xB, 0xC, 0xD, 0xF] := by
  have hlt := (fieldN w).isLt
  unfold decodeAlu
  split
  case h_10 =>
    simp only [imp_false] at *
    refine iff_of_true ⟨_, rfl⟩ ?_
    simp only [List.mem_cons, List.not_mem_nil, or_false]
    omega
  all_goals simp [*]

theorem decodeSneReg_error_iff : (∃ e, decodeSneReg w = .error e) ↔ (fieldN w).val ≠ 0 := by
  unfold decodeSneReg
  split <;> simp [*]

theorem decodeKey_error_iff : (∃ e, decodeKey w = .error e) ↔ (fieldKK w).toNat ∉ [0x9E, 0xA1] := by
  unfold decodeKey
  split
  case h_3 => simp only [imp_false] at *; simp [*]
  all_goals simp [*]

theorem decodeMisc_error_iff : (∃ e, decodeMisc w = .error e) ↔
    (fieldKK w).toNat ∉ [0x07, 0x0A, 0x15, 0x18, 0x1E, 0x29, 0x33, 0x55, 0x65] := by
  unfold decodeMisc
  split
  case h_10 => simp only [imp_false] at *; simp [*]
  all_goals simp [*]

/-- Every other family decodes each of its words. -/
theorem decode_error_iff : (∃ e, decode w = .error e) ↔
    (topNibble w = 0x8 ∧ ∃ e, decodeAlu w = .error e) ∨ (topNibble w = 0x9 ∧ ∃ e, decodeSneReg w = .error e) ∨
    (topNibble w = 0xE ∧ ∃ e, decodeKey w = .error e) ∨ (topNibble w = 0xF ∧ ∃ e, decodeMisc w = .error e) := by
  have hlt := topNibble_lt w
  unfold decode
  split
  case h_16 =>
    have htop : topNibble w = 0xF := by simp only [imp_false] at *; omega
    simp [htop]
  all_goals simp [*]

end IllegalWords

/-- Settles O3: the four families that can fail, each with the selectors it has no arm for. -/
theorem decodeFailsExactlyOnIllegalWords : Obligations.DecodeFailsExactlyOnIllegalWords := by
  unfold Obligations.DecodeFailsExactlyOnIllegalWords
  intro w
  rw [decode_error_iff, decodeAlu_error_iff, decodeSneReg_error_iff, decodeKey_error_iff, decodeMisc_error_iff,
    topNibble_eq, fieldN_val, fieldKK_toNat]

/-- Settles O4: each word is decoded as it stands. -/
theorem sampleWordsDecode : Obligations.SampleWordsDecode := by
  unfold Obligations.SampleWordsDecode
  decide

end Sys2Proof

namespace Sys2Proof.Machine

/-! ## The instruction cycle (R80) -/

theorem decodeAndExecute_ok {w : Word} {i : Instr} (h : decode w = .ok i) (s : State) :
    decodeAndExecute w s = exec i s := by
  simp only [decodeAndExecute, h]

/-- A cycle whose two cells are in memory, hold values and decode runs the decoded instruction with `pc` past it. -/
theorem executePhase_ok {s : State} {hi lo : Byte} {i : Instr} (hr : s.pc.toNat + 1 < memSize)
    (hhi : s.cell s.pc.toNat = some hi) (hlo : s.cell (s.pc.toNat + 1) = some lo)
    (hdec : decode (wordOfBytes hi lo) = .ok i) : executePhase s = onNext State.afterCycle (exec i s.advance) := by
  rw [executePhase, fetch_held hr hhi hlo, decodeAndExecute_ok hdec]

/-- Settles O5: the cycle of EXECUTE, with the next answers presented after it. -/
theorem stepRunsDecodedInstruction : Obligations.StepRunsDecodedInstruction := by
  unfold Obligations.StepRunsDecodedInstruction
  intro s hi lo i hx hr hhi hlo hdec
  rw [step_execute hx, executePhase_ok (s := s.clearCalls) (Nat.lt_succ_of_le hr) hhi hlo hdec, onNext_onNext]
  rfl

/-! ## The second operand of the shifts (R90) -/

/-- Settles O27: both encodings round-trip with `y`, and neither meaning names its second operand. -/
theorem shiftsIgnoreSecondOperand : Obligations.ShiftsIgnoreSecondOperand := by
  unfold Obligations.ShiftsIgnoreSecondOperand
  exact ⟨fun _ _ => ⟨decode_encode rfl, decode_encode rfl⟩, fun _ _ _ _ => ⟨rfl, rfl⟩⟩

end Sys2Proof.Machine

/-! # 41_control_flow.md: SYS, the jumps, CALL and RET -/

namespace Sys2Proof

/-! ## SYS words (R85, R110) -/

theorem decode_system {w : Word} (h : w.toNat < 0x1000) : decode w = .ok (decodeSystem w) := by
  have htop : topNibble w = 0x0 := by rw [topNibble_eq]; omega
  simp only [decode, htop]

theorem decodeSystem_sys {w : Word} (hcls : w ≠ 0x00E0#16) (hret : w ≠ 0x00EE#16) :
    decodeSystem w = .sys (fieldNNN w) := by
  rw [decodeSystem, if_neg hcls, if_neg hret]

theorem fieldNNN_eq_setWidth (w : Word) : fieldNNN w = w.setWidth 12 := by
  apply BitVec.eq_of_toNat_eq
  rw [fieldNNN_toNat, BitVec.toNat_setWidth]

end Sys2Proof

namespace Sys2Proof.Machine

/-- Settles O14: a word below 0x1000 is of the system family, whose two exact words are shut out. -/
theorem sysIsNoOperation : Obligations.SysIsNoOperation := by
  unfold Obligations.SysIsNoOperation
  refine ⟨fun w hw hcls hret => ?_, fun _ _ => rfl⟩
  rw [decode_system hw, decodeSystem_sys hcls hret, fieldNNN_eq_setWidth]

/-! ## Jumps (R113, R114) -/

/-- The exact sum: a 12-bit address and a byte never wrap. -/
theorem jumpOffset_toNat (nnn : Addr12) (off : Byte) :
    (zextAddr nnn + zextByte off).toNat = nnn.toNat + off.toNat := by
  have := nnn.isLt
  have := off.isLt
  simp only [zextByte, BitVec.toNat_add, BitVec.toNat_setWidth, zextAddr_toNat]
  omega

theorem exec_jpOff {s : State} (h : Item.v s.config.jumpOffsetReg ∉ s.blank) (nnn : Addr12) :
    exec (.jpOff nnn) s = .next (s.setPc (zextAddr nnn + zextByte s.v[s.config.jumpOffsetReg])) := by
  simp only [exec, execJpOff, readV_held h]

/-- Settles O15: both jumps answer an update of `pc` alone. -/
theorem jumpsOverwritePc : Obligations.JumpsOverwritePc := by
  unfold Obligations.JumpsOverwritePc
  exact ⟨fun _ _ => rfl, fun nnn s h => ⟨_, exec_jpOff h nnn, rfl, jumpOffset_toNat nnn _⟩⟩

/-! ## CALL (R112) -/

/-- The state CALL leaves when slot `j` is the next free one. -/
def State.call (j : Fin stackDepth) (nnn : Addr12) (s : State) : State :=
  ((s.setStack j s.pc).setSp (s.sp + 1)).setPc (zextAddr nnn)

theorem exec_call_free {s : State} (h : s.sp.toNat < stackDepth) (nnn : Addr12) :
    exec (.call nnn) s = .next (s.call ⟨s.sp.toNat, h⟩ nnn) := dif_pos h

theorem exec_call_full {s : State} (h : stackDepth ≤ s.sp.toNat) (nnn : Addr12) :
    exec (.call nnn) s = raiseHere (.stackOverflow s.sp) s := dif_neg (Nat.not_lt.2 h)

/-- Settles O16: the check of `SP` alone decides between the push and the fault. -/
theorem callPushesAndJumps : Obligations.CallPushesAndJumps := by
  unfold Obligations.CallPushesAndJumps
  exact ⟨fun nnn s h => exec_call_free h nnn, fun nnn s h => exec_call_full h nnn⟩

/-! ## RET (R111) -/

section Return

variable {s : State} {j : Fin stackDepth}

theorem exec_ret_empty (h : s.sp.toNat = 0) : exec .ret s = raiseHere (.stackUnderflow s.sp) s := if_pos h

theorem exec_ret_above (h : stackDepth < s.sp.toNat) : exec .ret s = raiseHere (.stackOverflow s.sp) s :=
  (if_neg (Nat.ne_zero_of_lt h)).trans (dif_neg (Nat.not_le.2 h))

/-- With `SP` in range RET reads the slot below it. -/
theorem exec_ret_inRange (hj : s.sp.toNat = j.val + 1) :
    exec .ret s = readStack j s fun target => .next ((s.setSp (s.sp - 1)).setPc target) := by
  have hslot : s.sp.toNat - 1 = j.val := by omega
  have hle : s.sp.toNat ≤ stackDepth := hj ▸ j.isLt
  simp only [exec, execRet]
  rw [if_neg (by omega), dif_pos hle]
  simp only [hslot, Fin.eta]

theorem exec_ret_held (hj : s.sp.toNat = j.val + 1) (h : Item.stack j ∉ s.blank) :
    exec .ret s = .next ((s.setSp (s.sp - 1)).setPc s.stack[j]) :=
  (exec_ret_inRange hj).trans (readItem_held h ..)

theorem exec_ret_blank (hj : s.sp.toNat = j.val + 1) (h : Item.stack j ∈ s.blank) :
    exec .ret s = raiseHere (.unwritten (.stack j)) s :=
  (exec_ret_inRange hj).trans (readItem_blank h ..)

end Return

/-- Settles O17: an empty and an overfull stack first, then the slot that holds a value or none. -/
theorem returnPops : Obligations.ReturnPops := by
  unfold Obligations.ReturnPops
  exact ⟨fun _ _ hj h => exec_ret_held hj h, fun _ _ hj h => exec_ret_blank hj h,
    fun _ h => exec_ret_empty h, fun _ h => exec_ret_above h⟩

/-! ## RET after CALL (R112) -/

/-- A RET that runs after CALL, past its own word as the cycle does, undoes all of it but the write of its slot. -/
theorem exec_ret_call {s : State} {j : Fin stackDepth} (hj : s.sp.toNat = j.val) (nnn : Addr12) :
    exec .ret (s.call j nnn).advance = .next (s.setStack j s.pc) := by
  have hsp : (s.sp + 1).toNat = j.val + 1 := by have := j.isLt; simp only [stackDepth] at this; bv_omega
  have hheld : Item.stack j ∉ (s.call j nnn).advance.blank := fun h => (mem_fill.1 h).2 rfl
  have hslot : (s.call j nnn).advance.stack[j] = s.pc := Vector.getElem_set_self _
  have hpop : (s.call j nnn).advance.sp - 1 = s.sp := BitVec.add_sub_cancel ..
  rw [exec_ret_held hsp hheld, hslot, hpop]
  rfl

/-- Settles O18: CALL and RET together write the slot `SP` names and nothing else. -/
theorem callThenReturnRestoresPc : Obligations.CallThenReturnRestoresPc := by
  unfold Obligations.CallThenReturnRestoresPc
  intro nnn s h
  refine ⟨_, _, exec_call_free h nnn, exec_ret_call rfl nnn, rfl, fun j hj => ?_⟩
  by_contra hne
  exact hj (congrArg Fin.val (stack_push_other hne))

end Sys2Proof.Machine

/-! # 42_skips.md: SE and SNE -/

namespace Sys2Proof.Machine

/-- The skip mechanism as one update of `pc` (R124), for the comparison a Boolean stands for. -/
theorem State.skipIf_of_iff {c : Bool} {p : Prop} [Decidable p] (h : c = true ↔ p) (s : State) :
    s.skipIf c = if p then { s with pc := s.pc + 2 } else s := if_congr h rfl rfl

section RegisterSkips

variable {s : State} {x y : Reg} (hx : Item.v x ∉ s.blank)
include hx

theorem exec_seImm (kk : Byte) : exec (.seImm x kk) s = .next (s.skipIf (s.v[x] == kk)) := by
  simp only [exec, execSeImm, readV_held hx]

theorem exec_sneImm (kk : Byte) : exec (.sneImm x kk) s = .next (s.skipIf (s.v[x] != kk)) := by
  simp only [exec, execSneImm, readV_held hx]

theorem exec_seReg (hy : Item.v y ∉ s.blank) : exec (.seReg x y) s = .next (s.skipIf (s.v[x] == s.v[y])) := by
  simp only [exec, execSeReg, readV_held hx, readV_held hy]

theorem exec_sneReg (hy : Item.v y ∉ s.blank) : exec (.sneReg x y) s = .next (s.skipIf (s.v[x] != s.v[y])) := by
  simp only [exec, execSneReg, readV_held hx, readV_held hy]

end RegisterSkips

/-- Settles O19: each of the four reads its registers and hands its comparison to the skip mechanism. -/
theorem registerSkips : Obligations.RegisterSkips := by
  unfold Obligations.RegisterSkips
  intro s x y kk hx
  refine ⟨?seImm, ?sneImm, fun hy => ⟨?seReg, ?sneReg⟩⟩
  case seImm => rw [exec_seImm hx, State.skipIf_of_iff beq_iff_eq]
  case sneImm => rw [exec_sneImm hx, State.skipIf_of_iff bne_iff_ne]
  case seReg => rw [exec_seReg hx hy, State.skipIf_of_iff beq_iff_eq]
  case sneReg => rw [exec_sneReg hx hy, State.skipIf_of_iff bne_iff_ne]

end Sys2Proof.Machine

/-! # 43_register_alu.md: register loads, the ALU and RND -/

namespace Sys2Proof.Machine

/-! ## Instructions that write one register (R131 to R136, R142) -/

theorem State.setV_self (x : Reg) (b : Byte) (s : State) : (s.setV x b).v[x] = b := Vector.getElem_set_self _

/-- A write of one register as an update of the record, given by the value the register then holds. -/
theorem State.setV_frame (x : Reg) (b : Byte) (s : State) :
    s.setV x b = { s with v := s.v.set x (s.setV x b).v[x], blank := s.blank.filter (· ≠ .v x) } := by
  rw [State.setV_self]
  rfl

section OneRegister

variable {s : State} {x y : Reg}

theorem exec_ldReg (hy : Item.v y ∉ s.blank) : exec (.ldReg x y) s = .next (s.setV x s.v[y]) := by
  simp only [exec, execLdReg, readV_held hy]

theorem exec_addImm (hx : Item.v x ∉ s.blank) (kk : Byte) :
    exec (.addImm x kk) s = .next (s.setV x (s.v[x] + kk)) := by
  simp only [exec, execAddImm, readV_held hx]

variable (hx : Item.v x ∉ s.blank) (hy : Item.v y ∉ s.blank)
include hx hy

theorem exec_or : exec (.or x y) s = .next (s.setV x (s.v[x] ||| s.v[y])) := by
  simp only [exec, execOr, readV_held hx, readV_held hy]

theorem exec_and : exec (.and x y) s = .next (s.setV x (s.v[x] &&& s.v[y])) := by
  simp only [exec, execAnd, readV_held hx, readV_held hy]

theorem exec_xor : exec (.xor x y) s = .next (s.setV x (s.v[x] ^^^ s.v[y])) := by
  simp only [exec, execXor, readV_held hx, readV_held hy]

end OneRegister

/-- Settles O20: the immediate needs no read, and the register read holds a value. -/
theorem registerLoads : Obligations.RegisterLoads := by
  unfold Obligations.RegisterLoads
  exact fun _ _ _ _ => ⟨rfl, fun hy => exec_ldReg hy⟩

/-- Settles O21: the sum of two bytes wraps, and only its register is written. -/
theorem addImmediateWraps : Obligations.AddImmediateWraps := by
  unfold Obligations.AddImmediateWraps
  intro s x kk hx
  refine ⟨_, exec_addImm hx kk, State.setV_frame .., ?_⟩
  rw [State.setV_self, BitVec.toNat_add]

/-- Settles O22: each of the three writes one word operation, which acts bit by bit. -/
theorem bitwiseOperations : Obligations.BitwiseOperations := by
  unfold Obligations.BitwiseOperations
  intro s x y hx hy
  refine ⟨⟨_, exec_or hx hy, State.setV_frame .., fun k _ => ?or⟩,
    ⟨_, exec_and hx hy, State.setV_frame .., fun k _ => ?and⟩,
    ⟨_, exec_xor hx hy, State.setV_frame .., fun k _ => ?xor⟩⟩
  case or => rw [State.setV_self, BitVec.getLsbD_or]
  case and => rw [State.setV_self, BitVec.getLsbD_and]
  case xor => rw [State.setV_self, BitVec.getLsbD_xor]

/-- Settles O28: the draw is masked as it comes, and a step may be answered any byte. -/
theorem randomIsMaskedDraw : Obligations.RandomIsMaskedDraw := by
  unfold Obligations.RandomIsMaskedDraw
  exact fun s x kk => ⟨⟨_, rfl, rfl⟩,
    fun b => ⟨{ quietAnswers with draw8 := b }, _, rfl, State.setV_self x (b &&& kk) _⟩⟩

/-! ## Flags as numbers (R32, R137 to R141) -/

theorem flagByte_toNat (f : Bool) : (flagByte f).toNat = f.toNat := by cases f <;> rfl

theorem flagByte_decide_toNat (p : Prop) [Decidable p] : (flagByte (decide p)).toNat = if p then 1 else 0 := by
  rw [flagByte_toNat, Bool.toNat, Bool.cond_decide]

theorem flagByte_lowBit_toNat (a : Byte) : (flagByte (lowBit a)).toNat = a.toNat % 2 := by
  rw [flagByte_toNat, lowBit, ← BitVec.testBit_toNat, Nat.toNat_testBit, Nat.pow_zero, Nat.div_one]

/-- The mask 0x80 leaves the top bit alone, which is set from 128 on. -/
theorem highBitSet_eq_decide (a : Byte) : highBitSet a = decide (128 ≤ a.toNat) := by
  have hmask : a &&& 0x80#8 = if a.msb then 0x80#8 else 0 := by
    rw [BitVec.msb_eq_getLsbD_last]
    exact BitVec.and_twoPow a 7
  rw [highBitSet, hmask, ← BitVec.msb_eq_decide a]
  cases a.msb <;> rfl

theorem flagByte_highBitSet_toNat (a : Byte) : (flagByte (highBitSet a)).toNat = if 128 ≤ a.toNat then 1 else 0 := by
  rw [highBitSet_eq_decide, flagByte_decide_toNat]

/-! ## A result and its flag: ADD, SUB and SUBN (R137, R138, R140) -/

theorem State.writeArith_frame (x : Reg) (b : Byte) (f : Bool) (s : State) :
    s.writeArith x b f = { s with v := (s.writeArith x b f).v, blank := (s.writeArith x b f).blank } := by
  unfold State.writeArith
  split <;> rfl

section Arith

variable {s : State} {x y : Reg} (hx : Item.v x ∉ s.blank) (hy : Item.v y ∉ s.blank)
include hx hy

theorem exec_addReg :
    exec (.addReg x y) s = .next (s.writeArith x (s.v[x] + s.v[y]) (carry s.v[x] s.v[y])) := by
  simp only [exec, execAddReg, readV_held hx, readV_held hy]

theorem exec_subReg :
    exec (.subReg x y) s = .next (s.writeArith x (s.v[x] - s.v[y]) (greater s.v[x] s.v[y])) := by
  simp only [exec, execSubReg, readV_held hx, readV_held hy]

theorem exec_subn : exec (.subn x y) s = .next (s.writeArith x (s.v[y] - s.v[x]) (greater s.v[y] s.v[x])) := by
  simp only [exec, execSubn, readV_held hx, readV_held hy]

end Arith

/-- The difference of two bytes is the exact difference modulo 256. -/
theorem byte_sub_toNat (a b : Byte) : ((a - b).toNat : Int) = ((a.toNat : Int) - b.toNat) % 256 := by
  have := a.isLt
  have := b.isLt
  rw [BitVec.toNat_sub]
  omega

/-- Settles O23: the sum wraps, and `carry` is the comparison of the exact sum with 255. -/
theorem addSetsCarry : Obligations.AddSetsCarry := by
  unfold Obligations.AddSetsCarry
  intro s x y hx hy
  refine ⟨_, exec_addReg hx hy, State.writeArith_frame .., fun _ => mem_blank_writeArith,
    fun r hr hf => State.writeArith_other hr hf .., fun h => ?flag, fun h => ?result⟩
  case flag => rw [State.writeArith_flag h, carry, flagByte_decide_toNat]
  case result => rw [State.writeArith_result h, BitVec.toNat_add]

/-- Settles O24: both instructions write the difference of minuend and subtrahend and the comparison `greater`. -/
theorem subtractsSetNoBorrow : Obligations.SubtractsSetNoBorrow := by
  unfold Obligations.SubtractsSetNoBorrow
  intro s x y hx hy i a b hi
  have hexec : exec i s = .next (s.writeArith x (a - b) (greater a b)) := by
    obtain ⟨rfl, rfl, rfl⟩ | ⟨rfl, rfl, rfl⟩ := hi
    · exact exec_subReg hx hy
    · exact exec_subn hx hy
  refine ⟨_, hexec, State.writeArith_frame .., fun _ => mem_blank_writeArith,
    fun r hr hf => State.writeArith_other hr hf .., fun h => ?flag, fun h => ?result⟩
  case flag => rw [State.writeArith_flag h, greater, flagByte_decide_toNat]
  case result => rw [State.writeArith_result h, byte_sub_toNat]

/-! ## A shift and the bit it drops: SHR and SHL (R139, R141) -/

theorem State.writeShift_frame (x : Reg) (g : Byte → Byte) (f : Byte → Bool) (s : State) :
    s.writeShift x g f = { s with v := (s.writeShift x g f).v, blank := (s.writeShift x g f).blank } := by
  unfold State.writeShift
  split <;> rfl

section Shift

variable {s : State} {x : Reg} (hx : Item.v x ∉ s.blank)
include hx

theorem exec_shr (y : Reg) : exec (.shr x y) s = .next (s.writeShift x (· >>> 1) lowBit) := by
  simp only [exec, execShr, readV_held hx]

theorem exec_shl (y : Reg) : exec (.shl x y) s = .next (s.writeShift x (· <<< 1) highBitSet) := by
  simp only [exec, execShl, readV_held hx]

end Shift

theorem shiftRight_toNat (a : Byte) : (a >>> 1).toNat = a.toNat / 2 := BitVec.toNat_ushiftRight ..

theorem shiftLeft_toNat (a : Byte) : (a <<< 1).toNat = 2 * a.toNat % 256 := by
  rw [BitVec.toNat_shiftLeft, Nat.shiftLeft_eq, Nat.mul_comm]

/-- Settles O25: apart from VF both values stay; VF itself keeps the shifted flag, which is 0, or the flag. -/
theorem shiftRightSetsDroppedBit : Obligations.ShiftRightSetsDroppedBit := by
  unfold Obligations.ShiftRightSetsDroppedBit
  intro s x y hx
  refine ⟨_, exec_shr hx y, State.writeShift_frame .., fun _ => mem_blank_writeShift,
    fun r hr hf => State.writeShift_other hr hf .., fun h => ?apart, fun h => ?vf⟩
  case apart =>
    obtain ⟨hres, hflag⟩ := State.writeShift_apart h (· >>> 1) lowBit s
    rw [hres, hflag]
    exact ⟨shiftRight_toNat _, flagByte_lowBit_toNat _⟩
  case vf =>
    subst h
    rw [State.writeShift_vf, apply_ite BitVec.toNat, shiftRight_toNat, flagByte_lowBit_toNat]
    split <;> omega

/-- Settles O26: apart from VF both values stay; VF itself keeps the shifted flag, twice it, or the flag. -/
theorem shiftLeftSetsHighBitTest : Obligations.ShiftLeftSetsHighBitTest := by
  unfold Obligations.ShiftLeftSetsHighBitTest
  intro s x y hx
  refine ⟨_, exec_shl hx y, State.writeShift_frame .., fun _ => mem_blank_writeShift,
    fun r hr hf => State.writeShift_other hr hf .., fun h => ?apart, fun h => ?vf⟩
  case apart =>
    obtain ⟨hres, hflag⟩ := State.writeShift_apart h (· <<< 1) highBitSet s
    rw [hres, hflag]
    exact ⟨shiftLeft_toNat _, flagByte_highBitSet_toNat _⟩
  case vf =>
    subst h
    rw [State.writeShift_vf, apply_ite BitVec.toNat, shiftLeft_toNat, flagByte_highBitSet_toNat]
    split <;> split <;> rfl

end Sys2Proof.Machine

/-! # 44_index_memory.md: the index register and the memory block instructions -/

namespace Sys2Proof.Machine

/-! ## Instructions that set the index register (R150 to R152) -/

theorem zextByte_toNat (b : Byte) : (zextByte b).toNat = b.toNat :=
  BitVec.toNat_setWidth_of_le (by decide)

theorem glyphAddr_toNat (b : Byte) : (glyphAddr b).toNat = 5 * (b.toNat % 16) := by
  have hlow : (b &&& 0x0F#8).toNat = b.toNat % 16 := Nat.and_two_pow_sub_one_eq_mod b.toNat 4
  simp only [glyphAddr, glyphBase, glyphStride, BitVec.toNat_ofNat, hlow]
  omega

theorem exec_ldF {s : State} {x : Reg} (hx : Item.v x ∉ s.blank) :
    exec (.ldF x) s = .next (s.setIndex (glyphAddr s.v[x])) := by
  simp only [exec, execLdF, readV_held hx]

theorem exec_addI {s : State} {x : Reg} (hx : Item.v x ∉ s.blank) (hi : Item.index ∉ s.blank) :
    exec (.addI x) s = .next (s.setIndex (s.index + zextByte s.v[x])) := by
  simp only [exec, execAddI, readIndex_held hi, readV_held hx]

/-- Settles O29: each of the three writes one word to `I`; the sum of ADD I wraps as words do. -/
theorem indexInstructions : Obligations.IndexInstructions := by
  unfold Obligations.IndexInstructions
  intro s x nnn
  refine ⟨⟨_, rfl, zextAddr_toNat nnn, rfl⟩, fun hx => ⟨_, exec_ldF hx, glyphAddr_toNat _, rfl⟩,
    fun hx hi => ⟨_, exec_addI hx hi, ?_, rfl⟩⟩
  rw [State.setIndex_index, BitVec.toNat_add, zextByte_toNat]

/-! ## Stores to the cells from `I` on (R153 to R155) -/

/-- Registers stored in a block: each is found in the cell of its own number. -/
theorem cell_setCells_regsUpTo {x r : Reg} (hr : r ≤ x) (f : Reg → Byte) (a : Nat) (s : State) :
    (s.setCells a ((regsUpTo x).map f)).cell (a + r.val) = some (f r) := by
  have hlen : r.val < ((regsUpTo x).map f).length := by
    rw [List.length_map, length_regsUpTo]; exact Nat.lt_succ_of_le hr
  rw [State.cell_setCells_inside hlen, List.getElem_map, getElem_regsUpTo]

section Stores

variable {s : State} {x : Reg} (hi : Item.index ∉ s.blank)
  (hg : glyphBytes ≤ s.index.toNat ∨ s.config.glyphWritePolicy = .write)
include hi hg

theorem exec_ldB (hx : Item.v x ∉ s.blank) (hend : s.index.toNat + 3 ≤ memSize) :
    exec (.ldB x) s = .next (s.setCells s.index.toNat (bcdDigits s.v[x])) := by
  simp only [exec, execLdB, readV_held hx, withWritable_pass hi hend hg]

variable (hend : s.index.toNat + (x.val + 1) ≤ memSize)
include hend

theorem exec_storeRegs_held (hregs : ∀ r ≤ x, Item.v r ∉ s.blank) :
    exec (.storeRegs x) s = .next (s.setCells s.index.toNat ((regsUpTo x).map fun r => s.v[r])) := by
  simp only [exec, execStoreRegs, withWritable_pass hi hend hg]
  exact readRegs_held (fun r hr => hregs r (mem_regsUpTo.1 hr)) _

theorem exec_storeRegs_blank {r : Reg} (hr : r ≤ x) (hblank : Item.v r ∈ s.blank)
    (hlow : ∀ q < r, Item.v q ∉ s.blank) : exec (.storeRegs x) s = raiseHere (.unwritten (.v r)) s := by
  obtain ⟨hsplit, hbelow⟩ := regsUpTo_split hr
  simp only [exec, execStoreRegs, withWritable_pass hi hend hg]
  rw [hsplit]
  exact readRegs_blank (fun q hq => hlow q (hbelow q hq)) hblank _

end Stores

/-- Settles O30: the digits are those of the division by 100 and by 10, stored as one block of three cells. -/
theorem bcdStoresDigits : Obligations.BcdStoresDigits := by
  unfold Obligations.BcdStoresDigits
  intro s x hx hi hend hg
  have hbyte : s.v[x].toNat < 256 := s.v[x].isLt
  have hlen : (bcdDigits s.v[x]).length = 3 := rfl
  exact ⟨_, s.v[x].toNat / 100, s.v[x].toNat / 10 % 10, s.v[x].toNat % 10,
    exec_ldB hi hg hx (Nat.succ_le_succ hend), State.setCells_frame .., by omega, by omega, by omega, by omega,
    State.cell_setCells_inside (k := 0) (by omega), State.cell_setCells_inside (k := 1) (by omega),
    State.cell_setCells_inside (k := 2) (by omega), fun a ha => cell_setCells_outside ha⟩

/-- Settles O31: the addresses pass, so the registers are read next, from V0 up, and stored only if all hold values. -/
theorem blockStoreCopiesRegisters : Obligations.BlockStoreCopiesRegisters := by
  unfold Obligations.BlockStoreCopiesRegisters
  intro s x hi hend hg
  have hmem : s.index.toNat + (x.val + 1) ≤ memSize := Nat.succ_le_succ hend
  refine ⟨fun hregs => ⟨_, exec_storeRegs_held hi hg hmem hregs, State.setCells_frame ..,
    fun r hr => cell_setCells_regsUpTo hr _ _ s, fun a ha => cell_setCells_outside ?_⟩,
    fun r hr hblank hlow => exec_storeRegs_blank hi hg hmem hr hblank hlow⟩
  rwa [List.length_map, length_regsUpTo]

/-! ## Loads from the cells from `I` on (R153, R156) -/

/-- Registers loaded from a block: each holds the byte of its own number. -/
theorem State.setRegs_regsUpTo {x r : Reg} (hr : r ≤ x) (f : Reg → Byte) (s : State) :
    (s.setRegs (regsUpTo x) ((regsUpTo x).map f)).v[r] = f r := by
  have hlen : r.val < (regsUpTo x).length := by rw [length_regsUpTo]; exact Nat.lt_succ_of_le hr
  obtain ⟨hv, -⟩ := State.setRegs_written (nodup_regsUpTo x) (List.length_map f).symm s r.val hlen
  simpa only [List.getElem_map, getElem_regsUpTo] using hv

theorem State.setRegs_regsUpTo_above {x r : Reg} (hr : x < r) (bytes : List Byte) (s : State) :
    (s.setRegs (regsUpTo x) bytes).v[r] = s.v[r] :=
  (State.setRegs_other (fun h => absurd (mem_regsUpTo.1 h) (not_le.2 hr)) bytes s).1

theorem exec_loadRegs_held {s : State} {x : Reg} {bytes : Reg → Byte} (hi : Item.index ∉ s.blank)
    (hend : s.index.toNat + (x.val + 1) ≤ memSize)
    (hcells : ∀ r ≤ x, s.cell (s.index.toNat + r.val) = some (bytes r)) :
    exec (.loadRegs x) s = .next (s.setRegs (regsUpTo x) ((regsUpTo x).map bytes)) := by
  refine readBlock_held (fun _ => hi) (fun _ => hend) (cellsFrom_map (by simp) fun k hk => ?_) _
  rw [List.length_map, length_regsUpTo] at hk
  rw [List.getElem_map, getElem_regsUpTo]
  exact hcells ⟨k, by omega⟩ (Nat.le_of_lt_succ hk)

/-- Settles O32: the block read is the registers' new values, in the order of their numbers. -/
theorem blockLoadCopiesCells : Obligations.BlockLoadCopiesCells := by
  unfold Obligations.BlockLoadCopiesCells
  intro s x bytes hi hend hcells
  refine ⟨_, exec_loadRegs_held hi (Nat.succ_le_succ hend) hcells, State.setRegs_frame .., fun it => ?_,
    fun r hr => State.setRegs_regsUpTo hr bytes s, fun r hr => State.setRegs_regsUpTo_above hr _ s⟩
  simp only [mem_blank_setRegs (List.length_map bytes).symm, mem_regsUpTo]

/-! ## A load after a store (R155, R156, 20_memory.md R63) -/

/-- An instruction that leaves the phase short of FAULTED has completed. -/
theorem ExecNext.completion {i : Instr} {s t : State} (hx : ExecNext i s t) (hp : t.phase ≠ .faulted) :
    i.Readable s ∧ Completion i s t := by
  cases hx with
  | faults f => exact absurd rfl hp
  | callFails call _ => exact absurd rfl hp
  | completes _ hr hc => exact ⟨hr, hc⟩

/-- Settles O33: a store that completes has found its block in memory, and the load addresses the same block. -/
theorem blockStoreThenLoadRestores : Obligations.BlockStoreThenLoadRestores := by
  unfold Obligations.BlockStoreThenLoadRestores
  intro s t x other hstore hp
  obtain ⟨hread, hwritable, -, rfl⟩ := (exec_cases hstore).completion hp
  have hi : Item.index ∉ s.blank := hread _ (by simp [Instr.firstReads])
  have hlast : s.index.toNat + x.val ∈ cellsFrom s.index (x.val + 1) := mem_cellsFrom.2 (by omega)
  obtain ⟨hend, -⟩ := writeFault_none.1 (hwritable _ hlast)
  refine ⟨_, exec_loadRegs_held (bytes := fun r => s.v[r]) ?_ ?_ fun r hr => ?_, State.setRegs_mem ..,
    fun r hr => State.setRegs_regsUpTo hr _ _, fun r hr => State.setRegs_regsUpTo_above hr _ _⟩
  · simpa using hi
  · simp only [State.setCells_index]
    exact hend
  · simpa [State.cell] using cell_setCells_regsUpTo hr (fun r => s.v[r]) s.index.toNat s

end Sys2Proof.Machine

/-! # 45_display.md: CLS and DRW -/

namespace Sys2Proof.Machine

/-- Settles O36: the word is the exact word of CLS, whose meaning replaces the pixel buffer by the empty one. -/
theorem clearScreenClearsAll : Obligations.ClearScreenClearsAll := by
  unfold Obligations.ClearScreenClearsAll
  exact ⟨decode_encode (i := .cls) rfl, fun _ => ⟨_, rfl, rfl, fun _ _ _ _ => Nat.zero_testBit _⟩⟩

/-! ## What DRW reads, and what it writes (R171) -/

theorem readable_drw {s : State} {x y : Reg} {n : Count} :
    (Instr.drw x y n).Readable s ↔
      Item.v x ∉ s.blank ∧ Item.v y ∉ s.blank ∧ (n.val ≠ 0 → Item.index ∉ s.blank) := by
  by_cases hn : n.val = 0 <;> simp [Instr.Readable, Instr.firstReads, hn]

theorem exec_drw_held {s : State} {x y : Reg} {n : Count} {rows : List Byte} (hr : (Instr.drw x y n).Readable s)
    (hend : n.val ≠ 0 → s.index.toNat + n.val ≤ memSize)
    (hcells : (cellsFrom s.index n.val).map s.cell = rows.map some) :
    exec (.drw x y n) s = .next (s.drawSprite s.v[x].toNat s.v[y].toNat rows) := by
  obtain ⟨hx, hy, hi⟩ := readable_drw.1 hr
  simp only [exec, execDrw, readV_held hx, readV_held hy]
  exact readBlock_held hi hend hcells _

/-- The bits a sprite leaves, and whether it cleared one on its way. -/
def State.drawn (x0 y0 : Nat) (rows : List Byte) (s : State) : Nat × Bool :=
  togglePixels s.config (spritePixels s.config x0 y0 rows) (s.pix.bits, false)

@[simp] theorem State.drawSprite_pix (x0 y0 : Nat) (rows : List Byte) (s : State) :
    (s.drawSprite x0 y0 rows).pix = ⟨(s.drawn x0 y0 rows).1⟩ := rfl

theorem State.drawSprite_vf (x0 y0 : Nat) (rows : List Byte) (s : State) :
    (s.drawSprite x0 y0 rows).v[15] = flagByte (s.drawn x0 y0 rows).2 := State.setV_self ..

/-- A drawn sprite as an update of the record, given by the VF and the buffer it leaves. -/
theorem State.drawSprite_frame (x0 y0 : Nat) (rows : List Byte) (s : State) :
    s.drawSprite x0 y0 rows =
      { s with
        v := s.v.set 15 (s.drawSprite x0 y0 rows).v[15], blank := s.blank.filter (· ≠ .v 15)
        pix := (s.drawSprite x0 y0 rows).pix } := by
  rw [State.drawSprite_vf]
  rfl

theorem flagByte_eq_one {f : Bool} : flagByte f = 1 ↔ f = true := by cases f <;> decide

theorem flagByte_eq_zero {f : Bool} : flagByte f = 0 ↔ f = false := by cases f <;> decide

/-! ## The pixels a sprite toggles, counted over the grid (R171) -/

theorem State.drawSprite_pixel {s : State} (hc : s.config.Legal) {px py : Nat} (hx : px < s.config.width)
    (x0 y0 : Nat) (rows : List Byte) :
    (s.drawSprite x0 y0 rows).pixel px py =
      (s.pixel px py ^^ decide (spriteHits s.config x0 y0 rows px py % 2 = 1)) := by
  rw [← landings_spritePixels hc hx]
  exact togglePixels_testBit ..

/-- The collision flag over pixels in place of bit numbers: a sprite lands on bit numbers of the grid alone. -/
theorem State.drawn_hit {s : State} (hc : s.config.Legal) (x0 y0 : Nat) (rows : List Byte) :
    (s.drawn x0 y0 rows).2 = true ↔ ∃ px py, px < s.config.width ∧ py < s.config.height ∧
      ((s.pixel px py = true ∧ 1 ≤ spriteHits s.config x0 y0 rows px py) ∨
        2 ≤ spriteHits s.config x0 y0 rows px py) := by
  simp only [State.drawn, togglePixels_hit, Bool.false_eq_true, false_or]
  constructor
  · rintro ⟨k, hk⟩
    have hland : 1 ≤ landings s.config (spritePixels s.config x0 y0 rows) k := by omega
    obtain ⟨px, py, hpx, hpy, rfl⟩ := landings_in_grid hc hland
    rw [landings_spritePixels hc hpx] at hk
    exact ⟨px, py, hpx, hpy, hk⟩
  · rintro ⟨px, py, hpx, -, hk⟩
    refine ⟨pixelIndex s.config px py, ?_⟩
    rwa [landings_spritePixels hc hpx]

/-- Settles O37: the bits by `togglePixels_testBit`, VF by `togglePixels_hit`, both carried over to the grid. -/
theorem drawTogglesSprite : Obligations.DrawTogglesSprite := by
  unfold Obligations.DrawTogglesSprite
  intro s x y n rows hc hr hlen hend hcells
  refine ⟨_, exec_drw_held hr hend (cellsFrom_map hlen hcells), State.drawSprite_frame ..,
    fun px py hpx _ => State.drawSprite_pixel hc hpx .., ?bit, ?flag⟩
  case bit => rw [State.drawSprite_vf]; exact flagByte_bit _
  case flag => rw [State.drawSprite_vf, flagByte_eq_one, State.drawn_hit hc]

/-! ## The same pixels toggled twice (R172) -/

theorem togglePixels_twice (c : Config) (ps : List (Nat × Nat)) (bits : Nat) (hit hit' : Bool) :
    (togglePixels c ps ((togglePixels c ps (bits, hit)).1, hit')).1 = bits := by
  rw [togglePixels_xor, togglePixels_xor c ps bits, Nat.xor_assoc, Nat.xor_self, Nat.xor_zero]

theorem exists_landing {c : Config} {ps : List (Nat × Nat)} : (∃ k, 1 ≤ landings c ps k) ↔ ps ≠ [] := by
  cases ps with
  | nil => simp
  | cons p ps =>
    refine iff_of_true ⟨pixelIndex c p.1 p.2, ?_⟩ (List.cons_ne_nil p ps)
    rw [landings_cons, if_pos rfl]
    exact Nat.le_add_left ..

section Distinct

variable {c : Config} {ps : List (Nat × Nat)} (hd : ∀ k, landings c ps k ≤ 1)
include hd

/-- Distinct pixels of a clear buffer end set, and no others. -/
theorem togglePixels_clear_testBit (k : Nat) :
    (togglePixels c ps (0, false)).1.testBit k = true ↔ 1 ≤ landings c ps k := by
  have := hd k
  rw [togglePixels_testBit, Nat.zero_testBit, Bool.false_xor, decide_eq_true_eq]
  omega

theorem togglePixels_clear_hit : (togglePixels c ps (0, false)).2 = false := by
  rw [← Bool.not_eq_true, togglePixels_hit]
  rintro (h | ⟨k, ⟨h, -⟩ | h⟩)
  · cases h
  · rw [Nat.zero_testBit] at h
    cases h
  · exact absurd (hd k) (Nat.not_le.2 h)

theorem togglePixels_clear_ne_zero : (togglePixels c ps (0, false)).1 ≠ 0 ↔ ps ≠ [] := by
  rw [← exists_landing (c := c)]
  constructor
  · intro h
    obtain ⟨k, hk⟩ := Nat.exists_testBit_of_ne_zero h
    exact ⟨k, (togglePixels_clear_testBit hd k).1 hk⟩
  · rintro ⟨k, hk⟩ h
    have hset := (togglePixels_clear_testBit hd k).2 hk
    rw [h, Nat.zero_testBit] at hset
    cases hset

/-- The second turn of distinct pixels collides as soon as there is one. -/
theorem togglePixels_again_hit :
    (togglePixels c ps ((togglePixels c ps (0, false)).1, false)).2 = true ↔ ps ≠ [] := by
  rw [togglePixels_hit, ← exists_landing (c := c)]
  simp only [togglePixels_clear_testBit hd, Bool.false_eq_true, false_or]
  refine exists_congr fun k => ⟨fun h => ?_, fun h => .inl ⟨h, h⟩⟩
  omega

end Distinct

/-! ## A sprite that fits lands on distinct pixels (R171) -/

/-- Offsets short of the modulus stay apart when they wrap. -/
theorem offset_eq_of_mod_eq {a i j m : Nat} (hi : i < m) (hj : j < m) (h : (a + i) % m = (a + j) % m) : i = j :=
  Nat.ModEq.eq_of_lt_of_lt (Nat.ModEq.add_left_cancel' a h) hi hj

theorem mem_setColumns {b : Byte} {col : Nat} : col ∈ setColumns b ↔ col < 8 ∧ b.getLsbD (7 - col) = true := by
  simp [setColumns]

/-- A pixel of a sprite is where some column of some of its rows lands. -/
theorem place_of_mem_spritePixels {c : Config} {x0 y0 : Nat} {rows : List Byte} {p : Nat × Nat}
    (h : p ∈ spritePixels c x0 y0 rows) :
    ∃ col r, r < rows.length ∧ p = ((x0 + col) % c.width, (y0 + r) % c.height) := by
  induction rows generalizing y0 with
  | nil => cases h
  | cons b rows ih =>
    simp only [spritePixels, List.mem_append, List.mem_map] at h
    rcases h with ⟨col, -, rfl⟩ | h
    · exact ⟨col, 0, Nat.succ_pos _, rfl⟩
    · obtain ⟨col, r, hr, rfl⟩ := ih h
      exact ⟨col, r + 1, Nat.succ_lt_succ hr, by rw [Nat.add_right_comm, Nat.add_assoc]⟩

section Fits

variable {c : Config} (hw : 8 ≤ c.width)
include hw

theorem nodup_spriteRow (x0 y : Nat) (b : Byte) :
    ((setColumns b).map fun col => ((x0 + col) % c.width, y)).Nodup := by
  refine (List.nodup_range.filter _).map_on fun i hi j hj h => ?_
  have hi8 := (mem_setColumns.1 hi).1
  have hj8 := (mem_setColumns.1 hj).1
  exact offset_eq_of_mod_eq (hi8.trans_le hw) (hj8.trans_le hw) (congrArg Prod.fst h)

/-- Within a row the columns differ, and the first row differs from all later ones. -/
theorem nodup_spritePixels {x0 y0 : Nat} {rows : List Byte} (hh : rows.length ≤ c.height) :
    (spritePixels c x0 y0 rows).Nodup := by
  induction rows generalizing y0 with
  | nil => exact List.nodup_nil
  | cons b rows ih =>
    rw [List.length_cons] at hh
    refine List.Nodup.append (nodup_spriteRow hw ..) (ih (by omega)) fun p hfirst hlater => ?_
    obtain ⟨col, -, rfl⟩ := List.mem_map.1 hfirst
    obtain ⟨_, r, hr, hplace⟩ := place_of_mem_spritePixels hlater
    have hrow : (y0 + 0) % c.height = (y0 + (1 + r)) % c.height :=
      (congrArg Prod.snd hplace).trans (by rw [Nat.add_assoc])
    have := offset_eq_of_mod_eq (by omega) (by omega) hrow
    omega

theorem landings_le_one {x0 y0 : Nat} {rows : List Byte} (hh : rows.length ≤ c.height) (k : Nat) :
    landings c (spritePixels c x0 y0 rows) k ≤ 1 := by
  have hcol : ∀ p ∈ spritePixels c x0 y0 rows, p.1 < c.width := fun p hp => by
    obtain ⟨col, r, -, rfl⟩ := place_of_mem_spritePixels hp
    exact Nat.mod_lt _ (by omega)
  have hnodup : ((spritePixels c x0 y0 rows).map fun p => pixelIndex c p.1 p.2).Nodup :=
    (nodup_spritePixels hw hh).map_on fun p hp q hq h =>
      Prod.ext_iff.2 (pixelIndex_inj (hcol p hp) (hcol q hq) h)
  have hcount := List.nodup_iff_count_le_one.1 hnodup k
  rwa [List.count, List.countP_map] at hcount

end Fits

/-! ## A sprite with a 1 bit (R171) -/

theorem setColumns_eq_nil {b : Byte} : setColumns b = [] ↔ b = 0 := by
  constructor
  · intro h
    refine BitVec.eq_of_getLsbD_eq fun k hk => ?_
    have hcol : 7 - k ∉ setColumns b := h ▸ List.not_mem_nil
    rw [mem_setColumns, show 7 - (7 - k) = k by omega] at hcol
    rw [BitVec.ofNat_eq_ofNat, BitVec.getLsbD_zero]
    simpa [show 7 - k < 8 by omega] using hcol
  · rintro rfl
    decide

theorem spritePixels_ne_nil {c : Config} {x0 y0 : Nat} {rows : List Byte} :
    spritePixels c x0 y0 rows ≠ [] ↔ ∃ b ∈ rows, b ≠ 0 := by
  induction rows generalizing y0 with
  | nil => simp [spritePixels]
  | cons b rows ih =>
    rw [spritePixels, Ne, List.append_eq_nil_iff, not_and_or, List.map_eq_nil_iff, setColumns_eq_nil,
      List.exists_mem_cons_iff]
    exact or_congr_right ih

/-- A property of some byte of a block that was read, as one of the cells it was read from. -/
theorem exists_mem_block {s : State} {w : Word} {n : Nat} {rows : List Byte} {P : Byte → Prop}
    (h : (cellsFrom w n).map s.cell = rows.map some) :
    (∃ b ∈ rows, P b) ↔ ∃ r b, r < n ∧ s.cell (w.toNat + r) = some b ∧ P b := by
  have hmem : ∀ b, b ∈ rows ↔ ∃ r < n, s.cell (w.toNat + r) = some b := fun b => by
    rw [← List.mem_map_of_injective (Option.some_injective Byte), ← h]
    simp [cellsFrom]
  simp only [hmem]
  constructor
  · rintro ⟨b, ⟨r, hr, hcell⟩, hb⟩
    exact ⟨r, b, hr, hcell, hb⟩
  · rintro ⟨r, b, hr, hcell, hb⟩
    exact ⟨b, ⟨r, hr, hcell⟩, hb⟩

/-! ## One sprite drawn twice (R172) -/

/-- A DRW that completes has found its block in memory, and reads it again in the state it leaves. -/
theorem exec_drw_again {s : State} {x y : Reg} {n : Count} {x0 y0 : Nat} {rows : List Byte}
    (hr : (Instr.drw x y n).Readable s) (hmem : ∀ a ∈ cellsFrom s.index n.val, a < memSize)
    (hcells : (cellsFrom s.index n.val).map s.cell = rows.map some)
    (hx : (s.drawSprite x0 y0 rows).v[x].toNat = x0) (hy : (s.drawSprite x0 y0 rows).v[y].toNat = y0) :
    exec (.drw x y n) (s.drawSprite x0 y0 rows) =
      .next ((s.drawSprite x0 y0 rows).drawSprite x0 y0 rows) := by
  have hend : n.val ≠ 0 → s.index.toNat + n.val ≤ memSize := fun hn => by
    have := hmem (s.index.toNat + (n.val - 1)) (mem_cellsFrom.2 (by omega))
    omega
  have hread : (Instr.drw x y n).Readable (s.drawSprite x0 y0 rows) :=
    fun it hit hblank => hr it hit (mem_blank_drawSprite.1 hblank).1
  rw [exec_drw_held hread hend hcells, hx, hy]

section ClearBuffer

variable {s : State} {x0 y0 : Nat} {rows : List Byte} (hclear : s.pix.bits = 0) (hw : 8 ≤ s.config.width)
  (hh : rows.length ≤ s.config.height)
include hclear hw hh

theorem State.drawSprite_clear_vf : (s.drawSprite x0 y0 rows).v[15] = 0 := by
  rw [State.drawSprite_vf, State.drawn, hclear, togglePixels_clear_hit (landings_le_one hw hh)]
  rfl

theorem State.drawSprite_clear_pix : (s.drawSprite x0 y0 rows).pix ≠ s.pix ↔ ∃ b ∈ rows, b ≠ 0 := by
  have hpix : s.pix = ⟨0⟩ := congrArg PixelBuffer.mk hclear
  rw [State.drawSprite_pix, State.drawn, hpix, Ne, PixelBuffer.mk.injEq, ← Ne,
    togglePixels_clear_ne_zero (landings_le_one hw hh), spritePixels_ne_nil]

theorem State.drawn_again_hit :
    ((s.drawSprite x0 y0 rows).drawn x0 y0 rows).2 = true ↔ ∃ b ∈ rows, b ≠ 0 := by
  rw [State.drawn, State.drawSprite_pix, State.drawSprite_config, State.drawn, hclear,
    togglePixels_again_hit (landings_le_one hw hh), spritePixels_ne_nil]

end ClearBuffer

/-- Settles O38: a toggle undoes itself, and a sprite that fits toggles distinct pixels, all of them clear at first. -/
theorem drawTwiceRestores : Obligations.DrawTwiceRestores := by
  unfold Obligations.DrawTwiceRestores
  intro s t x y n hdraw hp hx hy
  obtain ⟨hr, rows, hlen, hmem, hcells, rfl⟩ := (exec_cases hdraw).completion hp
  refine ⟨_, exec_drw_again hr hmem hcells (congrArg _ hx) (congrArg _ hy),
    congrArg PixelBuffer.mk (togglePixels_twice ..), fun hclear hw hh => ?_⟩
  have hfit : rows.length ≤ s.config.height := hlen.trans_le hh
  have hchanged := State.drawSprite_clear_pix (x0 := s.v[x].toNat) (y0 := s.v[y].toNat) hclear hw hfit
  have hagain := State.drawn_again_hit (x0 := s.v[x].toNat) (y0 := s.v[y].toNat) hclear hw hfit
  refine ⟨State.drawSprite_clear_vf hclear hw hfit, fun hne => ?collides, fun heq => ?empty,
    hchanged.trans (exists_mem_block hcells)⟩
  case collides => rw [State.drawSprite_vf, flagByte_eq_one, hagain, ← hchanged]; exact hne
  case empty =>
    rw [State.drawSprite_vf, flagByte_eq_zero, ← Bool.not_eq_true, hagain, ← hchanged]
    exact not_not_intro heq

end Sys2Proof.Machine

/-! # 46_timers_keys.md: the timers and the keys -/

namespace Sys2Proof.Machine

/-! ## The timers (R180, R182, R183) -/

section TimerWrites

variable {s : State} {x : Reg} (hx : Item.v x ∉ s.blank)
include hx

theorem exec_ldDtVx : exec (.ldDtVx x) s = .next (s.setDt s.v[x]) := by
  simp only [exec, execLdDtVx, readV_held hx]

theorem exec_ldStVx : exec (.ldStVx x) s = .next (s.setSt s.v[x]) := by
  simp only [exec, execLdStVx, readV_held hx]

end TimerWrites

/-- Settles O39: DT needs no read, and the register that sets a timer holds a value. -/
theorem timerAccess : Obligations.TimerAccess := by
  unfold Obligations.TimerAccess
  exact fun _ _ => ⟨rfl, fun hx => ⟨exec_ldDtVx hx, exec_ldStVx hx⟩⟩

/-! ## The key skips (R184 to R186) -/

theorem readKey_named {b : Byte} {key : Key} (h : b.toNat = key.val) (s : State) (k : Key → Result) :
    readKey b s k = k key :=
  (dif_pos (h.trans_lt key.isLt)).trans (congrArg k (Fin.ext h))

theorem readKey_above {b : Byte} (h : 0x0F < b.toNat) (s : State) (k : Key → Result) :
    readKey b s k = raiseHere (.keyRange b) s :=
  dif_neg (Nat.not_lt.2 h)

/-- The skip mechanism as one update of `pc` (R124). -/
theorem State.skipIf_eq_update (c : Bool) (s : State) :
    s.skipIf c = { s with pc := if c then s.pc + 2 else s.pc } := by cases c <;> rfl

theorem State.skipIf_not_eq_update (c : Bool) (s : State) :
    s.skipIf (!c) = { s with pc := if c then s.pc else s.pc + 2 } := by cases c <;> rfl

section AskKey

variable {s : State} {x : Reg} (hx : Item.v x ∉ s.blank) (k : Bool → State → Result)
include hx

theorem askKey_above (h : 0x0F < s.v[x].toNat) : askKey x s k = raiseHere (.keyRange s.v[x]) s := by
  rw [askKey, readV_held hx, readKey_above h]

theorem askKey_returns {key : Key} {keys : BitVec 16} (h : s.v[x].toNat = key.val)
    (hr : s.answers.keys = .returns keys) :
    askKey x s k = k (keys.getLsbD key.val) (s.issue (.isKeyPressed key)) := by
  rw [askKey, readV_held hx, readKey_named h, hr, Reply.response_returns, request_returns]

theorem askKey_fails {key : Key} (h : s.v[x].toNat = key.val) (hr : s.answers.keys = .fails) :
    askKey x s k = raise (some s.instrAddr) (.capability (.isKeyPressed key)) (s.issue (.isKeyPressed key)) := by
  rw [askKey, readV_held hx, readKey_named h, hr, Reply.response_fails, request_fails]

/-- The call is non-blocking (R225), so the question leaves a next state wherever what follows it does. -/
theorem askKey_exists_next (hk : ∀ down u, ∃ t, k down u = .next t) : ∃ t, askKey x s k = .next t := by
  obtain h | h := Nat.lt_or_ge 0x0F s.v[x].toNat
  · exact ⟨_, askKey_above hx k h⟩
  · have hkey : s.v[x].toNat = (⟨s.v[x].toNat, Nat.lt_succ_of_le h⟩ : Key).val := rfl
    cases hr : s.answers.keys with
    | returns keys => exact askKey_returns hx k hkey hr ▸ hk _ _
    | fails => exact ⟨_, askKey_fails hx k hkey hr⟩

end AskKey

theorem exec_skp (x : Reg) (s : State) :
    exec (.skp x) s = askKey x s fun down u => .next (u.skipIf down) := rfl

theorem exec_sknp (x : Reg) (s : State) :
    exec (.sknp x) s = askKey x s fun down u => .next (u.skipIf !down) := rfl

/-- SKP and SKNP are one question, and a skip on a test of its answer. -/
theorem exec_keySkip {i : Instr} {x : Reg} (hi : i = .skp x ∨ i = .sknp x) (s : State) :
    ∃ test : Bool → Bool, exec i s = askKey x s fun down u => .next (u.skipIf (test down)) := by
  obtain rfl | rfl := hi
  · exact ⟨id, exec_skp x s⟩
  · exact ⟨not, exec_sknp x s⟩

/-- Settles O40: the key in range and the reply of the call decide how the one question both instructions ask ends. -/
theorem keySkips : Obligations.KeySkips := by
  unfold Obligations.KeySkips
  refine fun s x hx => ⟨fun key keys hkey hr => ⟨?skp, ?sknp⟩, fun i hi => ?either⟩
  case skp =>
    rw [exec_skp, askKey_returns hx _ hkey hr, State.skipIf_eq_update]
    rfl
  case sknp =>
    rw [exec_sknp, askKey_returns hx _ hkey hr, State.skipIf_not_eq_update]
    rfl
  case either =>
    obtain ⟨test, he⟩ := exec_keySkip hi s
    rw [he]
    exact ⟨askKey_above hx _, fun _ => askKey_fails hx _, askKey_exists_next hx _ fun _ _ => ⟨_, rfl⟩⟩

/-! ## The blocking key read (R181) -/

theorem keyValue_key_toNat (c : Config) (d : Key) : (keyValue c (.key d)).toNat = d.val :=
  Nat.mod_eq_of_lt (d.isLt.trans (by decide))

section WaitForKey

variable {s : State} (x : Reg)

theorem exec_ldVxK_returns {event : KeyEvent} (h : s.answers.waitForKey = .returns event) :
    exec (.ldVxK x) s = .next ((s.issue .waitForKey).setV x (keyValue s.config event)) := by
  simp only [exec, execLdVxK, h, request_returns, State.issue_config]

theorem exec_ldVxK_fails (h : s.answers.waitForKey = .fails) :
    exec (.ldVxK x) s = raise (some s.instrAddr) (.capability .waitForKey) (s.issue .waitForKey) := by
  simp only [exec, execLdVxK, h, request_fails]

theorem exec_ldVxK_noAnswer (h : s.answers.waitForKey = .noAnswer) :
    exec (.ldVxK x) s = .fault (.waitsForever .waitForKey) := by
  simp only [exec, execLdVxK, h, request_noAnswer]

end WaitForKey

/-- Settles O41: the three ways the call ends, and for the first the value of each event. -/
theorem blockingKeyRead : Obligations.BlockingKeyRead := by
  unfold Obligations.BlockingKeyRead
  refine fun s x => ⟨fun event h => ⟨_, exec_ldVxK_returns x h, State.setV_frame .., ?key, ?interrupted⟩,
    exec_ldVxK_fails x, exec_ldVxK_noAnswer x⟩
  case key =>
    rintro d rfl
    rw [State.setV_self, keyValue_key_toNat]
  case interrupted =>
    rintro rfl
    exact State.setV_self ..

end Sys2Proof.Machine

/-! # 60_exceptions.md: the faults, the edges of the scheduler and the calls of its phases -/

namespace Sys2Proof.Machine

/-! ## Codes and names (R201) -/

/-- Settles O9: one row of the table for each kind of fault. -/
theorem faultCodesAndNames : Obligations.FaultCodesAndNames := by
  unfold Obligations.FaultCodesAndNames
  refine ⟨?_, ?_, ?_, ?_, ?_, ?_, ?_, ?_, ?_⟩ <;> exact fun _ => ⟨rfl, rfl⟩

/-! ## Faults of an instruction (R200, R204) -/

/-- Settles O8: of what `exec` can answer only a fault of its own or of its call is in FAULTED. -/
theorem faultsArePrecise : Obligations.FaultsArePrecise := by
  unfold Obligations.FaultsArePrecise
  intro i s t h hs ht
  cases exec_cases h with
  | faults f => exact ⟨f, rfl, .inl rfl⟩
  | callFails call _ => exact ⟨.capability call, rfl, .inr ⟨call, rfl, rfl⟩⟩
  | completes _ _ hc =>
    obtain ⟨hphase, -⟩ := hc.control
    exact absurd (hphase.symm.trans ht) hs

/-! ## Every meaning answers a next state (R207, R226, R237)

`Answered` passes through every operation that may stop an instruction, as `Ensures` does: raising a fault is a next
state too. Only a request can break it, when its answer never comes. -/

/-- The result is a next state: neither a wait without end nor a refusal. -/
def Answered (r : Result) : Prop := ∃ t, r = .next t

theorem Answered.next (s : State) : Answered (.next s) := ⟨s, rfl⟩

theorem Answered.raise (at? : Option Word) (f : FaultKind) (s : State) : Answered (raise at? f s) := .next _

theorem Answered.raiseHere (f : FaultKind) (s : State) : Answered (raiseHere f s) := .raise _ f s

theorem Answered.readItem {α : Type} {it : Item} {a : α} {s : State} {k : α → Result} (hk : Answered (k a)) :
    Answered (readItem it a s k) := by
  unfold Machine.readItem
  split
  · exact .raiseHere _ s
  · exact hk

theorem Answered.readV {x : Reg} {s : State} {k : Byte → Result} (hk : Answered (k s.v[x])) :
    Answered (readV x s k) := .readItem hk

theorem Answered.readIndex {s : State} {k : Word → Result} (hk : Answered (k s.index)) :
    Answered (readIndex s k) := .readItem hk

theorem Answered.readRegs {xs : List Reg} {s : State} {k : List Byte → Result} (hk : ∀ bytes, Answered (k bytes)) :
    Answered (readRegs xs s k) := by
  induction xs generalizing k with
  | nil => exact hk []
  | cons x xs ih => exact .readV (ih fun bytes => hk (s.v[x] :: bytes))

theorem Answered.readCells {as : List Nat} {s : State} {k : List Byte → Result} (hk : ∀ bytes, Answered (k bytes)) :
    Answered (readCells as s k) := by
  induction as generalizing k with
  | nil => exact hk []
  | cons a as ih =>
    unfold Machine.readCells readCell
    split
    · exact ih fun bytes => hk (_ :: bytes)
    · exact .raise _ _ s

theorem Answered.checkAll {check : Nat → Option FaultKind} {addrs : List Nat} {s : State} {k : Result}
    (hk : Answered k) : Answered (checkAll check addrs s k) := by
  unfold Machine.checkAll
  split
  · exact .raiseHere _ s
  · exact hk

theorem Answered.readBlock {n : Nat} {s : State} {k : List Byte → Result} (hk : ∀ bytes, Answered (k bytes)) :
    Answered (readBlock n s k) := by
  unfold Machine.readBlock
  split
  · exact hk []
  · exact .readIndex (.checkAll (.readCells hk))

theorem Answered.withWritable {n : Nat} {s : State} {k : Nat → Result} (hk : Answered (k s.index.toNat)) :
    Answered (withWritable n s k) := .readIndex (.checkAll hk)

/-- The question of SKP and SKNP is non-blocking (R225). -/
theorem Answered.askKey {x : Reg} {s : State} {k : Bool → State → Result} (hk : ∀ down u, Answered (k down u)) :
    Answered (askKey x s k) := by
  by_cases hx : Item.v x ∈ s.blank
  · exact ⟨_, readItem_blank hx _ _⟩
  · exact askKey_exists_next hx k hk

theorem execRet_answered (s : State) : Answered (execRet s) := by
  unfold execRet readStack
  split
  · exact .raiseHere _ s
  · split
    · exact .readItem (.next _)
    · exact .raiseHere _ s

theorem execCall_answered (nnn : Addr12) (s : State) : Answered (execCall nnn s) := by
  unfold execCall
  split
  · exact .next _
  · exact .raiseHere _ s

/-- Every instruction but LD Vx, K is answered, whatever its state and its answers. -/
theorem exec_answered {i : Instr} (hi : ∀ x, i ≠ .ldVxK x) (s : State) : Answered (exec i s) := by
  cases i <;> simp only [exec]
  case sys | cls | jp | ldImm | ldI | rnd | ldVxDt => exact .next _
  case ret => exact execRet_answered s
  case call nnn => exact execCall_answered nnn s
  case seImm | sneImm | addImm | ldReg | shr | shl | jpOff | ldDtVx | ldStVx | ldF => exact .readV (.next _)
  case seReg | sneReg | or | and | xor | addReg | subReg | subn => exact .readV (.readV (.next _))
  case addI => exact .readIndex (.readV (.next _))
  case skp | sknp => exact .askKey fun _ _ => .next _
  case ldB => exact .readV (.withWritable (.next _))
  case storeRegs => exact .withWritable (.readRegs fun _ => .next _)
  case loadRegs => exact .readBlock fun _ => .next _
  case drw => exact .readV (.readV (.readBlock fun _ => .next _))
  case ldVxK x => exact absurd rfl (hi x)

/-- Settles O13: LD Vx, K is the one instruction that waits, and its call ends in one of three ways. -/
theorem everyInstructionRuns : Obligations.EveryInstructionRuns := by
  unfold Obligations.EveryInstructionRuns
  intro i s
  by_cases hi : ∃ x, i = .ldVxK x
  · obtain ⟨x, rfl⟩ := hi
    cases h : s.answers.waitForKey with
    | returns event => exact .inl ⟨_, exec_ldVxK_returns x h⟩
    | fails => exact .inl ⟨_, exec_ldVxK_fails x h⟩
    | noAnswer => exact .inr ⟨exec_ldVxK_noAnswer x h, rfl, x, rfl⟩
  · exact .inl (exec_answered (not_exists.1 hi) s)

/-! ## The edges of the scheduler (R200, R230) -/

/-- `t` lies one edge of the scheduler's state machine after `s`, and where that edge is a fault `t` holds its record,
with the address of the fetch if `s` was in EXECUTE. -/
def SchedulerMove (s t : State) : Prop :=
  t.phase ∈ s.phase.next ∧
    (t.phase = .faulted → ∃ k at?, t.faultRecord = some ⟨k, at?⟩ ∧ (s.phase = .execute → at? = some s.pc))

theorem SchedulerMove.moves {s t : State} (hn : t.phase ∈ s.phase.next) (hf : t.phase ≠ .faulted) :
    SchedulerMove s t := ⟨hn, fun h => absurd h hf⟩

theorem SchedulerMove.faults {s : State} {at? : Option Word} (hn : .faulted ∈ s.phase.next)
    (ha : s.phase = .execute → at? = some s.pc) (u : State) (k : FaultKind) :
    SchedulerMove s (u.enterFault at? k) := ⟨hn, fun _ => ⟨k, at?, rfl, ha⟩⟩

/-- A fault outside EXECUTE needs no address. -/
theorem SchedulerMove.faultsOutside {s : State} (hn : .faulted ∈ s.phase.next) (hx : s.phase ≠ .execute) (u : State)
    (k : FaultKind) : SchedulerMove s (u.enterFault none k) := .faults hn (fun h => absurd h hx) u k

section SchedulerMoves

variable {s : State}

theorem initPhase_move (hp : s.phase = .init) : Ensures (SchedulerMove s) (initPhase s) :=
  .initPhase (.faultsOutside (by simp [hp, Phase.next]) (by simp [hp]) _ _)
    (.moves (by simp [hp, Phase.next]) (by simp))

theorem checkPhase_move (hp : s.phase = .check) : Ensures (SchedulerMove s) (checkPhase s) :=
  .checkPhase (.faultsOutside (by simp [hp, Phase.next]) (by simp [hp]) _ _) fun close =>
    .moves (by cases close <;> simp [hp, Phase.next]) (by cases close <;> simp)

theorem finalPhase_move (hp : s.phase = .final) : Ensures (SchedulerMove s) (finalPhase s) :=
  .finalPhase (.faultsOutside (by simp [hp, Phase.next]) (by simp [hp]) _ _)
    (.moves (by simp [hp, Phase.next]) (by simp))

/-- An iteration of SERVICE that ends stays in SERVICE or leaves for EXECUTE. -/
theorem afterService_move (hp : s.phase = .service) {u : State} (hu : u.phase = .service) (a : Answers) :
    SchedulerMove s (u.afterService a) := by
  rcases State.afterService_cases a u with e | e <;> rw [e]
  · exact .moves (by simp [hp, Phase.next]) (by simp)
  · exact .moves (by simp [hp, hu, Phase.next]) (by simp [hu])

theorem servicePhase_move (hp : s.phase = .service) : Ensures (SchedulerMove s) (servicePhase s) :=
  have hfails := SchedulerMove.faultsOutside (s := s) (by simp [hp, Phase.next]) (by simp [hp])
  have hends {u : State} (hu : u.phase = s.phase) := afterService_move hp (hu.trans hp) s.answers
  .servicePhase (hfails _ _) (fun _ => hfails _ _) (fun _ _ => hends rfl) (fun _ _ _ => hfails _ _)
    fun _ _ _ _ => hends rfl

/-- A cycle ends in CHECK unless its instruction has faulted, and then the record names where it was fetched. -/
theorem ExecNext.afterCycle_move {i : Instr} {t : State} (hp : s.phase = .execute) (hx : ExecNext i s.advance t) :
    SchedulerMove s t.afterCycle := by
  rcases hx.record with ⟨hphase, -⟩ | ⟨hphase, k, hrecord⟩
  · rw [State.afterCycle_running (by rw [hphase]; simp [hp])]
    exact .moves (by simp [hp, Phase.next]) (by simp)
  · rw [State.afterCycle_faulted hphase]
    exact ⟨by simp [hp, hphase, Phase.next], fun _ =>
      ⟨k, _, hrecord, fun _ => congrArg some s.instrAddr_advance⟩⟩

theorem executePhase_move (hp : s.phase = .execute) : Ensures (SchedulerMove s) (executePhase s) :=
  have hfaults := SchedulerMove.faults (s := s) (by simp [hp, Phase.next]) fun _ => rfl
  .executePhase (hfaults _) (hfaults _) fun _ _ _ hx => hx.afterCycle_move hp

end SchedulerMoves

theorem runPhase_move (s : State) : Ensures (SchedulerMove s) (runPhase s) := by
  unfold runPhase
  split
  next hp => exact initPhase_move hp
  next hp => exact checkPhase_move hp
  next hp => exact servicePhase_move hp
  next hp => exact executePhase_move hp
  next hp => exact finalPhase_move hp
  next => exact .refused
  next => exact .fault

theorem step_move (s : State) : Ensures (SchedulerMove s) (step s) :=
  .onNext (runPhase_move s.clearCalls)

theorem step_halted {s : State} (h : s.phase = .halted) : step s = .refused .runHalted := by
  simp only [step, schedulerStep, runPhase, State.clearCalls_phase, h, onNext_refused]

theorem step_faulted {s : State} (h : s.phase = .faulted) : step s = .fault (.runFaulted s.faultRecord) := by
  simp only [step, schedulerStep, runPhase, State.clearCalls_phase, h, onNext_fault, State.clearCalls_faultRecord]

/-- Settles O52: the edges phase by phase, and the two phases without any. -/
theorem schedulerEdges : Obligations.SchedulerEdges := by
  unfold Obligations.SchedulerEdges
  refine ⟨fun s t h => ?_, fun s => step_halted, fun s => step_faulted⟩
  obtain ⟨hedge, -⟩ := step_move s t h
  exact hedge

/-- Settles O7: the edge to FAULTED writes the record, and no edge leaves FAULTED. -/
theorem faultIsRecordedAndFatal : Obligations.FaultIsRecordedAndFatal := by
  unfold Obligations.FaultIsRecordedAndFatal
  intro s t h _ ht
  obtain ⟨-, hrecord⟩ := step_move s t h
  refine ⟨hrecord ht, fun u hu => ?_⟩
  rw [step_faulted ht] at hu
  cases hu

/-! ## The one call of INIT, CHECK and FINAL (R226, R230, R232, R233) -/

/-- A step that makes one call and then moves on, by how the call ends. -/
theorem onNext_request {α : Type} (call : CapCall) (answer : Response α) (s : State) (p : α → Phase) {r : Result}
    (hr : r = onNext .nextAnswers (request none call answer s.clearCalls fun v u => .next (u.setPhase (p v)))) :
    (∀ v, answer = .returns v → r = .next ((s.afterRequest call).setPhase (p v))) ∧
      (answer = .fails → r = .next ((s.afterRequest call).enterFault none (.capability call))) ∧
      (answer = .noAnswer → r = .fault (.waitsForever call)) := by
  subst hr
  refine ⟨?returns, ?fails, ?noAnswer⟩
  case returns => rintro v rfl; rfl
  case fails => rintro rfl; rfl
  case noAnswer => rintro rfl; rfl

/-- Settles O48: each of the three phases is one request and a move by its value. -/
theorem lifecyclePhases : Obligations.LifecyclePhases := by
  unfold Obligations.LifecyclePhases
  refine ⟨fun s hp => ?init, fun s hp => ?check, fun s hp => ?final⟩
  case init =>
    obtain ⟨hreturns, hrest⟩ := onNext_request .init s.answers.init s (fun _ => .check) (step_init hp)
    exact ⟨hreturns (), hrest⟩
  case check => exact onNext_request .shouldClose s.answers.shouldClose s _ (step_check hp)
  case final =>
    obtain ⟨hreturns, hrest⟩ := onNext_request .finalize s.answers.finalize s (fun _ => .halted) (step_final hp)
    exact ⟨hreturns (), hrest⟩

/-! ## One iteration of SERVICE (R215, R216, R225, R230, R231) -/

/-- The state once `draw_screen` and `update` have returned: two requests on the port and nothing else. -/
def State.afterUpdate (s : State) : State :=
  { s with calls := [.drawScreen, .update (serviceTimeout s.config)] }

/-- The end of an iteration moves the phase and nothing else. -/
theorem State.afterService_eq_update (a : Answers) (s : State) : s.afterService a = { s with
    phase := if s.config.freq = 0 ∨ a.budgetElapsed = true then .execute else s.phase } := by
  unfold State.afterService
  split <;> rfl

theorem countDown_toNat (t : Byte) : (countDown t).toNat = t.toNat - 1 := by
  unfold countDown
  split
  · next h => rw [h]; rfl
  · next h => bv_omega

theorem countDown_saturates (t : Byte) : (countDown t).toNat = if 0 < t.toNat then t.toNat - 1 else 0 := by
  rw [countDown_toNat]
  split <;> omega

theorem countDown_eq_zero (t : Byte) : countDown t = 0 ↔ t.toNat ≤ 1 := by
  rw [← BitVec.toNat_inj, countDown_toNat]
  exact Nat.sub_eq_zero_iff_le

section ServiceSteps

variable {s : State} (hp : s.phase = .service)
include hp

theorem step_service_iteration : step s = onNext .nextAnswers (serviceIteration s.answers s.clearCalls) :=
  step_service hp

theorem step_service_drawFails (hd : s.answers.drawScreen = .fails) :
    step s = .next ((s.afterRequest .drawScreen).enterFault none (.capability .drawScreen)) := by
  rw [step_service_iteration hp, serviceIteration, hd]
  rfl

theorem step_service_drawNoAnswer (hd : s.answers.drawScreen = .noAnswer) :
    step s = .fault (.waitsForever .drawScreen) := by
  rw [step_service_iteration hp, serviceIteration, hd]
  rfl

variable (hd : s.answers.drawScreen = .returns ())
include hd

theorem step_service_updateFails (hu : s.answers.update = .fails) :
    step s = .next (s.afterUpdate.enterFault none (.capability (.update (serviceTimeout s.config)))).nextAnswers := by
  rw [step_service_iteration hp, serviceIteration, hd, request_returns, hu]
  rfl

theorem step_service_updateNoAnswer (hu : s.answers.update = .noAnswer) :
    step s = .fault (.waitsForever (.update (serviceTimeout s.config))) := by
  rw [step_service_iteration hp, serviceIteration, hd, request_returns, hu]
  rfl

variable (hu : s.answers.update = .returns ())
include hu

theorem step_service_noTick (ht : s.answers.tickDue = false) :
    step s = .next (s.afterUpdate.afterService s.answers).nextAnswers := by
  rw [step_service_iteration hp, serviceIteration_noTick hd hu ht]
  rfl

variable (ht : s.answers.tickDue = true)
include ht

theorem step_service_tick (hs : s.answers.sound = .returns ()) :
    step s = .next (((s.afterUpdate.decrementTimers.issue (gateCall (countDown s.st))).setGate
      (gateFor (countDown s.st))).afterService s.answers).nextAnswers := by
  rw [step_service_iteration hp, serviceIteration_tick hd hu ht hs]
  rfl

theorem step_service_soundFails (hs : s.answers.sound = .fails) :
    step s = .next ((s.afterUpdate.decrementTimers.issue (gateCall (countDown s.st))).enterFault none
      (.capability (gateCall (countDown s.st)))).nextAnswers := by
  rw [step_service_iteration hp, serviceIteration_atTick hd hu ht, hs, request_fails]
  rfl

theorem step_service_soundNoAnswer (hs : s.answers.sound = .noAnswer) :
    step s = .fault (.waitsForever (gateCall (countDown s.st))) := by
  rw [step_service_iteration hp, serviceIteration_atTick hd hu ht, hs, request_noAnswer]
  rfl

end ServiceSteps

/-- Settles O49: with a tick and without, the state the iteration leaves, field by field. -/
theorem serviceIteration_holds : Obligations.ServiceIteration := by
  unfold Obligations.ServiceIteration
  intro s hp hd hu hs
  cases ht : s.answers.tickDue with
  | false =>
    refine ⟨_, step_service_noTick hp hd hu ht, ?_, fun _ => ?_, nofun, ?_⟩
    · rw [State.afterService_eq_update, ← hp]; rfl
    · simp [State.afterUpdate]
    · simp [State.afterUpdate, serviceTimeout]
  | true =>
    refine ⟨_, step_service_tick hp hd hu ht (hs ht), ?_, nofun, fun _ => ?_, ?_⟩
    · rw [State.afterService_eq_update, ← hp]; rfl
    · simp [State.afterUpdate, gateFor]
    · simp [State.afterUpdate, serviceTimeout, gateCall]

theorem gateCall_cases (st : Byte) : gateCall st = .soundResume ∨ gateCall st = .soundPause := by
  unfold gateCall
  split
  · exact .inr rfl
  · exact .inl rfl

/-- Settles O50: the timers count down by `countDown`, each from its own value, before the sound command goes out. -/
theorem timerTickCountsDown : Obligations.TimerTickCountsDown := by
  unfold Obligations.TimerTickCountsDown
  intro s hp hd hu ht hs
  refine ⟨_, step_service_tick hp hd hu ht hs, ?dt, ?st, ?calls⟩
  case dt => simpa [State.afterUpdate] using countDown_saturates s.dt
  case st => simpa [State.afterUpdate] using countDown_saturates s.st
  case calls => simpa [State.afterUpdate] using gateCall_cases _

/-- The command of a tick, by the sound timer before the tick. -/
theorem gateCall_countDown (st : Byte) :
    gateCall (countDown st) = if st.toNat ≤ 1 then .soundPause else .soundResume := by
  simp only [gateCall, countDown_eq_zero]

/-- Settles O60: the calls of the iteration in their order, each after the ones before it have returned. -/
theorem serviceCallsThatFail : Obligations.ServiceCallsThatFail := by
  unfold Obligations.ServiceCallsThatFail
  rintro s update gate hp rfl hgate
  rw [← gateCall_countDown] at hgate
  subst hgate
  refine ⟨step_service_drawFails hp, step_service_drawNoAnswer hp, fun hd =>
    ⟨step_service_updateFails hp hd, step_service_updateNoAnswer hp hd, fun hu ht =>
      ⟨fun hs => ⟨_, step_service_soundFails hp hd hu ht hs, rfl, ?dt, ?st⟩,
        step_service_soundNoAnswer hp hd hu ht⟩⟩⟩
  case dt => exact countDown_toNat s.dt
  case st => exact countDown_toNat s.st

/-! ## An unthrottled round (R230 to R232) -/

theorem State.answers_head {s : State} {a : Answers} {rest : List Answers} (h : s.inputs = a :: rest) :
    s.answers = a := by
  simp only [State.answers, h]

/-- Unthrottled, the loop is left whatever the budget says (R231). -/
theorem State.afterService_unthrottled {s : State} (h : s.config.freq = 0) (a : Answers) :
    s.afterService a = s.setPhase .execute := if_pos (.inl h)

theorem step_check_stays {s : State} (hp : s.phase = .check) (h : s.answers.shouldClose = .returns false) :
    step s = .next ((s.afterRequest .shouldClose).setPhase .service) := by
  obtain ⟨-, hcheck, -⟩ := lifecyclePhases
  obtain ⟨hreturns, -⟩ := hcheck s hp
  exact hreturns false h

/-- The state in which an unthrottled round from CHECK comes to its instruction cycle: two steps' answers are taken. -/
def State.atCycle (s : State) : State :=
  { s with
    phase := .execute, calls := [.drawScreen, .update (serviceTimeout s.config)]
    inputs := s.inputs.tail.tail, draws := s.draws + 2 }

theorem step_service_unthrottled {s : State} (hp : s.phase = .service) (hfreq : s.config.freq = 0)
    (hd : s.answers.drawScreen = .returns ()) (hu : s.answers.update = .returns ()) (ht : s.answers.tickDue = false) :
    step s = .next (s.afterUpdate.setPhase .execute).nextAnswers := by
  rw [step_service_noTick hp hd hu ht, State.afterService_unthrottled (s := s.afterUpdate) hfreq]

/-- Settles O53: CHECK and SERVICE each take their answers off the port, and EXECUTE fetches at the `pc` they left. -/
theorem unthrottledRoundRunsOneInstruction : Obligations.UnthrottledRoundRunsOneInstruction := by
  unfold Obligations.UnthrottledRoundRunsOneInstruction
  intro s a b c rest hi lo i hp hfreq hin hclose hd hu ht hr hhi hlo hdec
  have ha : s.answers = a := State.answers_head hin
  have hb : ((s.afterRequest .shouldClose).setPhase .service).answers = b :=
    State.answers_head (rest := c :: rest) (congrArg List.tail hin)
  have hc : s.atCycle.inputs = c :: rest := congrArg (fun l => l.tail.tail) hin
  refine ⟨_, s.atCycle, step_check_stays hp (ha ▸ hclose),
    step_service_unthrottled rfl hfreq (hb ▸ hd) (hb ▸ hu) (hb ▸ ht), rfl, rfl, ?_⟩
  rw [stepRunsDecodedInstruction s.atCycle hi lo i rfl hr hhi hlo hdec, ← hc]
  rfl

end Sys2Proof.Machine

/-! # 70_reset_and_hazards.md: reset, load and boot -/

namespace Sys2Proof.Machine

/-! ## The state right after reset (R250) -/

/-- Nothing is listed right after reset, so every cell reads as its reset content (R31). -/
theorem cell_resetWith (c : Config) (a : Nat) : (State.resetWith c).cell a = unlisted c a := rfl

theorem pixel_resetWith (c : Config) (x y : Nat) : (State.resetWith c).pixel x y = false := Nat.zero_testBit _

theorem unlisted_eq_of_zero {c : Config} (hz : c.resetPolicy = .zero) (a : Nat) :
    unlisted c a = some (if h : a < glyphBytes then c.glyphTable[a] else 0) := by
  unfold unlisted
  split
  · rfl
  · rw [hz]

theorem unlisted_eq_of_unwritten {c : Config} (hu : c.resetPolicy = .unwritten) (a : Nat) :
    unlisted c a = if h : a < glyphBytes then some c.glyphTable[a] else none := by
  unfold unlisted
  rw [hu]

theorem blank_resetWith_of_unwritten {c : Config} (hu : c.resetPolicy = .unwritten) :
    (State.resetWith c).blank = allItems := by
  simp only [State.resetWith, hu]

theorem v_mem_allItems (r : Reg) : Item.v r ∈ allItems :=
  List.mem_append_left _ (List.mem_map_of_mem (List.mem_finRange r))

theorem index_mem_allItems : Item.index ∈ allItems :=
  List.mem_append_right _ List.mem_cons_self

theorem stack_mem_allItems (j : Fin stackDepth) : Item.stack j ∈ allItems :=
  List.mem_append_right _ (List.mem_cons_of_mem _ (List.mem_map_of_mem (List.mem_finRange j)))

/-- Settles O54: reset lists no cell, and what it leaves blank is nothing or `allItems`, as the policy says. -/
theorem resetState : Obligations.ResetState := by
  unfold Obligations.ResetState
  refine ⟨?values, ?defaults, fun c hu => ?unwritten⟩
  case values =>
    exact ⟨fun r => Vector.getElem_replicate r.isLt, rfl, rfl, rfl, fun j => Vector.getElem_replicate j.isLt,
      rfl, rfl, pixel_resetWith Config.default, rfl, rfl, rfl, rfl,
      fun a _ => unlisted_eq_of_zero (c := Config.default) rfl a⟩
  case defaults => exact ⟨rfl, rfl, rfl, rfl, rfl, rfl, rfl, rfl, rfl⟩
  case unwritten =>
    rw [blank_resetWith_of_unwritten hu]
    exact ⟨v_mem_allItems, index_mem_allItems, stack_mem_allItems, fun a _ => unlisted_eq_of_unwritten hu a,
      rfl, rfl, rfl, pixel_resetWith c⟩

/-- Settles O58: what the request port and the answers to come hold is no part of the invariant. -/
theorem resetMeetsInv : Obligations.ResetMeetsInv := by
  unfold Obligations.ResetMeetsInv
  have hlegal (c : Config) (hc : c.Legal) : Inv (State.resetWith c) := Inv.resetWith hc [.width, .height]
  have hdefault : Config.default.Legal := by decide
  exact ⟨(hlegal Config.default hdefault).presenting [quietAnswers], hlegal⟩

/-! ## Load (R251) -/

theorem State.placeImage_frame (image : List Byte) (s : State) :
    s.placeImage image = { s with mem := (s.placeImage image).mem } := State.setCells_frame ..

theorem State.cell_placeImage (image : List Byte) (s : State) (a : Nat) :
    (s.placeImage image).cell a =
      if h : progBase ≤ a ∧ a < progBase + image.length then some image[a - progBase] else s.cell a :=
  State.cell_setCells ..

theorem State.loadImage_tooLong {image : List Byte} (h : maxImage < image.length) (s : State) :
    s.loadImage image = none := if_neg (Nat.not_le.2 h)

/-! ## Boot (R250, R252) -/

section Boot

variable {c : Config} {image : List Byte} (h : c.Legal ∧ image.length ≤ maxImage) (answers : List Answers)
include h

theorem boot_widthFails (height : Response Unit) :
    boot c image .fails height answers = .next { State.resetWith c with
      phase := .faulted, faultRecord := some ⟨.capability .width, none⟩, calls := [.width] } := if_pos h

theorem boot_widthNoAnswer (height : Response Unit) :
    boot c image .noAnswer height answers = .fault (.waitsForever .width) := if_pos h

theorem boot_heightFails :
    boot c image (.returns ()) .fails answers = .next { State.resetWith c with
      phase := .faulted, faultRecord := some ⟨.capability .height, none⟩, calls := [.width, .height] } := if_pos h

theorem boot_heightNoAnswer :
    boot c image (.returns ()) .noAnswer answers = .fault (.waitsForever .height) := if_pos h

end Boot

/-- Settles O55: an image is one block of stores from `PROG_BASE` on, and boot makes its two calls in their order. -/
theorem loadPlacesImageVerbatim : Obligations.LoadPlacesImageVerbatim := by
  unfold Obligations.LoadPlacesImageVerbatim
  refine ⟨fun s image => ⟨fun hi => ?loads, fun hi => s.loadImage_tooLong hi⟩,
    fun c image width height answers => ⟨fun hw hh hf hi => ?boots, fun hbad => ?refused⟩⟩
  case loads => exact ⟨_, s.loadImage_fits hi, s.placeImage_frame image, s.cell_placeImage image⟩
  case boots =>
    have h : c.Legal ∧ image.length ≤ maxImage := ⟨⟨hw, hh, hf⟩, hi⟩
    have hframe := congrArg (State.presenting answers) ((State.resetWith c).placeImage_frame image)
    exact ⟨⟨_, boot_legal h.1 h.2 answers, hframe, (State.resetWith c).cell_placeImage image⟩,
      boot_widthFails h answers height, boot_widthNoAnswer h answers height, boot_heightFails h answers,
      boot_heightNoAnswer h answers⟩
  case refused =>
    refine boot_illegal ?_ width height answers
    rintro ⟨⟨hw, hh, hf⟩, hi⟩
    simp only [maxFreq, maxImage] at hf hi
    omega

end Sys2Proof.Machine
